-- ==== Sys2Proof/Word.lean ====
section
/-! DEFINITION. The words of LCDC: 32-bit register and bus words, bytes, and bit sequences. -/

namespace Sys2Proof

/-- A 32-bit register or bus word (00_scope R7, R9). -/
abbrev Word := BitVec 32

/-- One byte of a buffer (00_scope R14). -/
abbrev Byte := BitVec 8

/-- An ordered sequence of bits of any length, first element first (00_scope R8, R14); `true` is the bit 1. -/
abbrev BitSeq := List Bool

end Sys2Proof
end

