-- ==== Sys2Proof/Machine/Bits.lean ====
section
/-! DEFINITION. The pure functions of BitCodec, LineDecoder and PayloadPipeline (40_bitcodec section 1,
41_linedecoder section 2, 42_pipeline R190), over naturals and bit sequences of any length. -/

namespace Sys2Proof.Machine

/-- `ceil8(n)`, the bytes that hold n bits (00_scope R9). -/
def ceil8 (n : Nat) : Nat := (n + 7) / 8

/-- The one error a pure function can meet (40_bitcodec R122). -/
inductive EncodingError where
  /-- The value needs more bits than the width (R122, R203). -/
  | valueTooWide
  deriving DecidableEq, Repr

/-- Element k of the `width`-bit MSB-first form of `v`: bit `width-1-k` of `v` (40_bitcodec R122). -/
def msbBit (v width k : Nat) : Bool := v.testBit (width - 1 - k)

/-- `intToBits(value, width)` (40_bitcodec R122, R123): exactly `width` bits, or an error when the value does not
fit; width 0 is legal (90_conflicts C1). -/
def intToBits (v width : Nat) : Except EncodingError BitSeq :=
  if 2 ^ width ≤ v then .error .valueTooWide
  else .ok ((List.range width).map (msbBit v width))

/-- The 8 bits of a byte, most significant first (40_bitcodec R120). -/
def byteBits (b : Byte) : BitSeq := (List.range 8).map (fun k => b.getLsbD (7 - k))

/-- `bytesToBits` (40_bitcodec R120, R121). -/
def bytesToBits : List Byte → BitSeq
  | [] => []
  | b :: bs => byteBits b ++ bytesToBits bs

/-- The MSB-first value of a bit sequence: element k weighs `2^(n-1-k)` (40_bitcodec R124, last line; the empty sum
is 0). -/
def msbValue : BitSeq → Nat
  | [] => 0
  | b :: s => b.toNat * 2 ^ s.length + msbValue s

/-- `bitsToInt(bits, invert, reverse)`: invert, then reverse, then read MSB-first (40_bitcodec R124). -/
def bitsToInt (s : BitSeq) (invert reverse : Bool) : Nat :=
  let s1 := if invert then s.map (fun b => !b) else s
  let s2 := if reverse then s1.reverse else s1
  msbValue s2

/-- A sequence with zeros appended up to whole bytes (40_bitcodec R130; 0 to 7 zeros, on the right). -/
def padRight (s : BitSeq) : BitSeq := s ++ List.replicate (8 * ceil8 s.length - s.length) false

/-- Chunk j of a padded sequence, elements 8j to 8j+7 (40_bitcodec R130). -/
def chunk (p : BitSeq) (j : Nat) : BitSeq := (p.drop (8 * j)).take 8

/-- `bitsToBytes` (40_bitcodec R130): each chunk of 8 read with no options, a short last chunk zero-padded on the
right. -/
def bitsToBytes (s : BitSeq) : List Byte :=
  (List.range (ceil8 s.length)).map (fun j => BitVec.ofNat 8 (bitsToInt (chunk (padRight s) j) false false))

/-- `matchAt(s, c, p)`: the slice is long enough and equals the pattern (41_linedecoder R170). -/
def matchAt (s : BitSeq) (c : Nat) (p : BitSeq) : Bool :=
  decide (c + p.length ≤ s.length) && (s.drop c).take p.length == p

/-- The loop of `lineDecode` from cursor `c`, with `fuel` bounding its turns: `one` is tried first, then `zero`;
where neither matches, the decoder stops (41_linedecoder R170, R171, R173; log 14). -/
def lineDecodeFrom (s one zero : BitSeq) : (fuel c : Nat) → BitSeq
  | 0, _ => []
  | fuel + 1, c =>
    if matchAt s c one then true :: lineDecodeFrom s one zero fuel (c + one.length)
    else if matchAt s c zero then false :: lineDecodeFrom s one zero fuel (c + zero.length)
    else []

/-- `lineDecode(s, one, zero)` (41_linedecoder R170). Patterns are non-empty, so at most `|s|` bits are emitted
(R172) and fuel `|s|` never cuts the loop short (log 14). -/
def lineDecode (s one zero : BitSeq) : BitSeq := lineDecodeFrom s one zero s.length 0

/-- `pipelineDecode(input, one, zero)` (42_pipeline R190). -/
def pipelineDecode (input : List Byte) (one zero : BitSeq) : List Byte :=
  bitsToBytes (lineDecode (bytesToBits input) one zero)

end Sys2Proof.Machine
end

