-- ==== Sys2Proof/Config.lean ====
section
/-! DEFINITION. What an implementation fixes (00_scope R7) and the values the spec leaves free
(93_implementation_defined U2, U3, U4). No constant here that the spec leaves OPEN has a body: nothing can be
proved of its value beyond the spec's own constraint. -/

namespace Sys2Proof

/-- Which legal capacity an implementation has; the OPEN choice behind `Config.bufBytes` (D7, U6; log 3). -/
opaque Config.bufSelect : Fin 16383

/-- `BUF_BYTES`, the capacity in bytes of IN_MEM and of OUT_MEM: the multiples of 4 from 8 to 65536 are
exactly its possible values (00_scope R7, D7; log 3). -/
def Config.bufBytes : Nat := 4 * Config.bufSelect.val + 8

/-- Which aligned place of the platform's address space the window has; the OPEN choice behind `Config.base`
(D2, U7; log 4). -/
opaque Config.baseIndex : Nat

/-- `BASE`, aligned to 2^18 (00_scope R7, D2; log 4). -/
def Config.base : Nat := 2 ^ 18 * Config.baseIndex

/-- `PAT_MAX`, the longest symbol pattern in bits (00_scope R7, D8). -/
def Config.patMax : Nat := 32

/-- `INT_MAX_BITS`, the longest sequence BITS_TO_INT accepts (00_scope R7, D18). -/
def Config.intMaxBits : Nat := 32

/-- `WIDTH_MAX`, the largest INT_TO_BITS width (00_scope R7, D17). -/
def Config.widthMax : Nat := 63

/-- The free value of the byte at an index of a buffer that nothing has written since the numbered draw: the
unspecified buffer bytes after reset (R231, U4) and past an output (R50, R63, U3). FREE VALUE (log 5). -/
opaque Config.freeByte (draw index : Nat) : Byte

/-- The free value a read of result state returns while BUSY = 1 (R68, U2). FREE VALUE (log 7). -/
opaque Config.freeWord (draw : Nat) : Word

end Sys2Proof
end

