-- ==== Sys2Proof/Machine/State.lean ====
section
/-! DEFINITION. The state of LCDC as plain data (10_state R54), the events that drive it, the reasons a step can
stop, and the state after reset (70_reset R230, R231). -/

namespace Sys2Proof.Machine

/-- One buffer, IN_MEM or OUT_MEM (10_state R49, R50). `cells` lists the written bytes by index, indices strictly
rising (`Memory.wf`); an index with no cell holds no written value and reads as the free byte of draw `draw`
(`Config.freeByte`; U3, U4; log 5). -/
structure Memory where
  draw : Nat
  cells : List Host.Cell
  deriving DecidableEq, Repr

/-- One host access: a bus transaction at an offset of the window (20_memory R64, 30_encoding R111). A write
carries its byte strobes where the platform bus has them (`none` where it has none: U10, log 11). -/
inductive Access where
  /-- One 32-bit read at an offset. -/
  | read (offset : BitVec 18)
  /-- One write of a word at an offset, with the strobes of its four bytes. -/
  | write (offset : BitVec 18) (data : Word) (strobes : Option (BitVec 4))
  deriving DecidableEq, Repr

/-- What can happen next: a host access, the engine's turn, or a reset (00_scope R6; log 1). -/
inductive Event where
  /-- A host access takes effect (20_memory R75). -/
  | access (a : Access)
  /-- The engine has its turn: it completes the command in flight, and has no step otherwise (10_state R30). -/
  | engine
  /-- A reset, one atomic event (70_reset R235). -/
  | reset
  deriving DecidableEq, Repr

/-- The bus response to a host access (20_memory R66). How the platform signals a bus error is outside the
block (U1; log 8). -/
inductive Response where
  /-- A read answered ok, with its data. -/
  | readOk (data : Word)
  /-- A read that got a bus error, with the data that came alongside it. -/
  | readError (data : Word)
  /-- A write that took effect. -/
  | writeOk
  /-- A write that was refused with a bus error. -/
  | writeError
  deriving DecidableEq, Repr

/-- The whole state: the tuple of 10_state R54 and, after it, the model's own four pieces (`agenda`, `resp`,
`draws`, and the draw numbers inside the two buffers; log 1, 6, 8). -/
structure State where
  /-- CMD, the last issued command word (R24). -/
  cmd : Word
  /-- STATUS.BUSY (R30). -/
  busy : Bool
  /-- STATUS.DONE (R31). -/
  done : Bool
  /-- STATUS.ERR (R32). -/
  err : Bool
  /-- STATUS.PAD, the padding notice (R33). -/
  pad : Bool
  /-- STATUS.CFG_VALID (R34). -/
  cfgValid : Bool
  /-- STATUS.ERR_CODE (R35). -/
  errCode : BitVec 4
  /-- IN_LEN (R37). -/
  inLen : Word
  /-- IN_NBITS (R38). -/
  inNbits : Word
  /-- ARG_VALUE (R39). -/
  argValue : Word
  /-- RESULT (R40). -/
  result : Word
  /-- OUT_LEN (R41). -/
  outLen : Word
  /-- OUT_NBITS (R42). -/
  outNbits : Word
  /-- ONE_PAT (R43). -/
  onePat : Word
  /-- ONE_LEN, its significant bits [5:0] (R44). -/
  oneLen : BitVec 6
  /-- ZERO_PAT (R45). -/
  zeroPat : Word
  /-- ZERO_LEN, its significant bits [5:0] (R46). -/
  zeroLen : BitVec 6
  /-- IN_MEM (R49). -/
  inMem : Memory
  /-- OUT_MEM (R50). -/
  outMem : Memory
  /-- The model's own: what is still to arrive, oldest first (log 1). -/
  agenda : List Event
  /-- The model's own: the response the last host access got (log 8). -/
  resp : Option Response
  /-- The model's own: the number of the next free draw (log 6). -/
  draws : Nat
  deriving DecidableEq, Repr

/-- Why a step stops with a fault. -/
inductive Fault where
  /-- Raised by DECODE_BITS and DECODE_BYTES on a committed pattern whose length is outside 1..32: 30_encoding R99
  defines no pattern there, and CONFIGURE (R161) lets no reachable state have one. SAFE: the model stops where the
  spec gives no value (log 9). -/
  | illegalPatternLength
  deriving DecidableEq, Repr

/-- Why a step is refused. -/
inductive Refusal where
  /-- Raised by an arm of `exec` for an instruction with no meaning yet; no arm raises it in this model. SAFE. -/
  | notModelled (mnemonic : String)
  deriving DecidableEq, Repr

/-- The machine right after reset (70_reset R230, R231, R233): every register 0, the buffers' contents free
(draws 0 and 1), idle and unconfigured. The values of the model's own fields are DESIGN CHOICE (log 1, 6, 8). -/
def State.reset : State where
  cmd := 0
  busy := false
  done := false
  err := false
  pad := false
  cfgValid := false
  errCode := 0
  inLen := 0
  inNbits := 0
  argValue := 0
  result := 0
  outLen := 0
  outNbits := 0
  onePat := 0
  oneLen := 0
  zeroPat := 0
  zeroLen := 0
  inMem := ⟨0, []⟩
  outMem := ⟨1, []⟩
  agenda := []
  resp := none
  draws := 2

end Sys2Proof.Machine
end

