-- ==== Sys2Proof/Machine/Flags.lean ====
section
/-! DEFINITION. STATUS as a word (10_state R25), the error codes (60_exceptions R201) and the padding notice
(10_state R33). -/

namespace Sys2Proof.Machine

/-- The errors a command can raise (60_exceptions R201). -/
inductive CmdError where
  /-- A pattern length is 0 or above 32 (R161, R202). -/
  | configurationError
  /-- ARG_VALUE does not fit the width (R142, R203). -/
  | encodingError
  /-- The command word does not decode (R96). -/
  | illegalCommand
  /-- A length operand is out of range (R37, R38). -/
  | argumentRange
  /-- A decode before a configuration commit (R180, R191). -/
  | notConfigured
  /-- CONFIGURE after a configuration commit (R161). -/
  | configLocked
  deriving DecidableEq, Repr

/-- The ERR_CODE value of each error (60_exceptions R201); 0x0 is NONE. -/
def CmdError.code : CmdError → BitVec 4
  | .configurationError => 0x1
  | .encodingError => 0x2
  | .illegalCommand => 0x3
  | .argumentRange => 0x4
  | .notConfigured => 0x5
  | .configLocked => 0x6

/-- STATUS as the host reads it (10_state R25, R36): ERR_CODE [11:8], CFG_VALID [4], PAD [3], ERR [2], DONE [1],
BUSY [0]; every other bit reads 0. -/
def State.statusWord (s : State) : Word :=
  0#20 ++ s.errCode ++ 0#3 ++ BitVec.ofBool s.cfgValid ++ BitVec.ofBool s.pad ++ BitVec.ofBool s.err
    ++ BitVec.ofBool s.done ++ BitVec.ofBool s.busy

/-- The padding notice of a bits-to-bytes output of n bits: its last byte is partial (10_state R33, R57). -/
def padNotice (n : Nat) : Bool := n % 8 != 0

end Sys2Proof.Machine
end

