-- ==== Sys2Proof/Machine/Ops.lean ====
section
/-! DEFINITION. The named operations over buffers and registers: reading and writing bytes, words and packed bits
(20_memory R62, R63, R69), issue (10_state R52), and the two ways a command completes (R53): with its effects, or
by raising an error (60_exceptions R200), which is all the exception entry LCDC has (R210). -/

namespace Sys2Proof.Machine

/-! ### Buffers -/

/-- The written byte at an index of a cell list, if there is one. -/
def lookupCell : List Host.Cell → Nat → Option Byte
  | [], _ => none
  | (a, b) :: cs, i => if a = i then some b else lookupCell cs i

/-- A cell list with the byte at an index written, indices kept rising. -/
def insertCell : List Host.Cell → Nat → Byte → List Host.Cell
  | [], i, v => [(i, v)]
  | (a, b) :: cs, i, v =>
    if i < a then (i, v) :: (a, b) :: cs
    else if i = a then (i, v) :: cs
    else (a, b) :: insertCell cs i v

/-- The canonical form of a buffer: indices strictly rising. An unlisted index holds NO written value, so no entry
can equal it, and two buffers that hold the same values are the same data (log 5). -/
abbrev Memory.wf (m : Memory) : Prop := m.cells.Pairwise (fun c d => c.1 < d.1)

/-- Every written index lies inside a buffer of `cap` bytes (10_state R49, R50). -/
abbrev Memory.within (m : Memory) (cap : Nat) : Prop := ∀ c ∈ m.cells, c.1 < cap

/-- `M[i]` (00_scope R10): the written byte, and the free byte of the buffer's draw where nothing is written
(U3, U4; log 5). -/
def Memory.read (m : Memory) (i : Nat) : Byte := (lookupCell m.cells i).getD (Config.freeByte m.draw i)

/-- `M[i] <- v` (00_scope R10). -/
def Memory.write (m : Memory) (i : Nat) (v : Byte) : Memory := { m with cells := insertCell m.cells i v }

/-- The bus word over bytes i to i+3, big-endian (20_memory R69). -/
def Memory.readWord (m : Memory) (i : Nat) : Word := m.read i ++ m.read (i + 1) ++ m.read (i + 2) ++ m.read (i + 3)

/-- A bus word written over bytes i to i+3, big-endian (20_memory R69). -/
def Memory.writeWord (m : Memory) (i : Nat) (w : Word) : Memory :=
  (((m.write i (w.extractLsb' 24 8)).write (i + 1) (w.extractLsb' 16 8)).write (i + 2) (w.extractLsb' 8 8)).write
    (i + 3) (w.extractLsb' 0 8)

/-- `MemRead(M, 0, n)` (00_scope R10). -/
def Memory.readBytes (m : Memory) (n : Nat) : List Byte := (List.range n).map m.read

/-- `bitAt(M, k)`: bit `7 - (k mod 8)` of byte `M[k div 8]` (20_memory R62). -/
def Memory.bitAt (m : Memory) (k : Nat) : Bool := (m.read (k / 8)).getLsbD (7 - k % 8)

/-- `ReadBits(M, n)` (20_memory R62). -/
def Memory.readBits (m : Memory) (n : Nat) : BitSeq := (List.range n).map m.bitAt

/-- Bytes listed from an index on. -/
def cellsFrom : Nat → List Byte → List Host.Cell
  | _, [] => []
  | i, b :: bs => (i, b) :: cellsFrom (i + 1) bs

/-- A buffer that holds `bs` from index 0, every byte past them free (20_memory R63, U3). -/
def Memory.holding (draw : Nat) (bs : List Byte) : Memory := { draw := draw, cells := cellsFrom 0 bs }

/-! ### Issue and completion -/

/-- The state with another list of what is still to arrive (log 1). -/
def State.withAgenda (s : State) (rest : List Event) : State := { s with agenda := rest }

/-- Issue of word `w` (10_state R52). -/
def State.issue (s : State) (w : Word) : State :=
  { s with cmd := w, done := false, err := false, pad := false, errCode := 0, busy := true }

/-- `WriteBits(OUT, bits)` (20_memory R63): the packed bytes from OUT[0], both output lengths, and every byte past
the output unspecified, a fresh draw (U3; log 5, 6). -/
def State.writeBits (s : State) (bits : BitSeq) : State :=
  { s with
    outMem := Memory.holding s.draws (bitsToBytes bits)
    draws := s.draws + 1
    outNbits := BitVec.ofNat 32 bits.length
    outLen := BitVec.ofNat 32 (bitsToBytes bits).length }

/-- RESULT <- v (40_bitcodec R143). -/
def State.writeResult (s : State) (v : Nat) : State := { s with result := BitVec.ofNat 32 v }

/-- CFG_VALID <- 1: the configuration commit (10_state R34, 41_linedecoder R161). -/
def State.commitConfig (s : State) : State := { s with cfgValid := true }

/-- A completion without error, with the PAD its rule gives (10_state R53). -/
def State.succeed (s : State) (pad : Bool) : State :=
  { s with err := false, errCode := 0, pad := pad, done := true, busy := false }

/-- A completion that raised an error: only STATUS changes (10_state R53, 60_exceptions R200). LCDC has no other
exception entry and no return from one (R210, R211): the next issue clears this. -/
def State.raiseErr (s : State) (e : CmdError) : State :=
  { s with err := true, errCode := e.code, pad := false, done := true, busy := false }

/-- Reset (70_reset R230, R231, R232): every register at its reset value, a command in flight abandoned, both
buffers at fresh free contents. What is still to arrive is not the block's and stays (log 1, 6). -/
def State.resetEvent (s : State) : State :=
  { State.reset with inMem := ⟨s.draws, []⟩, outMem := ⟨s.draws + 1, []⟩, draws := s.draws + 2, agenda := s.agenda }

end Sys2Proof.Machine
end

