-- ==== Sys2Proof/Machine/Operands.lean ====
section
/-! DEFINITION. How a command's operands are assembled (30_encoding R99, R100; 20_memory R80) and the range checks
on its length operands (10_state R37, R38). -/

namespace Sys2Proof.Machine

/-- A pattern length that CONFIGURE accepts: 1 to PAT_MAX (10_state R44, 41_linedecoder R161). -/
def legalPatLen (len : BitVec 6) : Bool := decide (1 ≤ len.toNat ∧ len.toNat ≤ Config.patMax)

/-- `patSeq(pat, len)`: bits len-1 down to 0 of the pattern register, bits above ignored (30_encoding R99). -/
def patBits (pat : Word) (len : BitVec 6) : BitSeq := (List.range len.toNat).map (fun k => pat.getLsbD (len.toNat - 1 - k))

/-- `oneSeq` (41_linedecoder R160). -/
def State.oneSeq (s : State) : BitSeq := patBits s.onePat s.oneLen

/-- `zeroSeq` (41_linedecoder R160). -/
def State.zeroSeq (s : State) : BitSeq := patBits s.zeroPat s.zeroLen

/-- Both pattern lengths are legal: the check of CONFIGURE (41_linedecoder R161), and where `patSeq` is defined
(30_encoding R99). -/
def State.patternsLegal (s : State) : Bool := legalPatLen s.oneLen && legalPatLen s.zeroLen

/-- The byte-buffer operand `MemRead(IN, 0, IN_LEN)` (30_encoding R100, 20_memory R80). -/
def State.inputBytes (s : State) : List Byte := s.inMem.readBytes s.inLen.toNat

/-- The bit-sequence operand `ReadBits(IN, IN_NBITS)` (30_encoding R100, 20_memory R80). -/
def State.inputBits (s : State) : BitSeq := s.inMem.readBits s.inNbits.toNat

/-- IN_LEN fits IN_MEM (10_state R37). -/
def State.inLenInRange (s : State) : Bool := decide (s.inLen.toNat ≤ Config.bufBytes)

/-- IN_NBITS fits IN_MEM (10_state R38). -/
def State.inNbitsInRange (s : State) : Bool := decide (s.inNbits.toNat ≤ 8 * Config.bufBytes)

/-- IN_NBITS fits RESULT, the bound of BITS_TO_INT (10_state R38, 40_bitcodec R143). -/
def State.inNbitsFitResult (s : State) : Bool := decide (s.inNbits.toNat ≤ Config.intMaxBits)

end Sys2Proof.Machine
end

