-- ==== Sys2Proof/Machine/Bus.lean ====
section
/-! DEFINITION. The host's side: the register map (10_state R22, R23), the offset map (20_memory R61), and what a
host read or write does and is answered (20_memory section 3; 60_exceptions R206). -/

namespace Sys2Proof.Machine

/-- The fourteen registers (10_state R22). -/
inductive Reg where
  | cmd | status | inLen | inNbits | argValue | result | outLen | outNbits
  | onePat | oneLen | zeroPat | zeroLen | bufBytes | patMax
  deriving DecidableEq, Repr

/-- The offset of a register (10_state R22). -/
def Reg.offset : Reg → Nat
  | .cmd => 0x000
  | .status => 0x004
  | .inLen => 0x008
  | .inNbits => 0x00C
  | .argValue => 0x010
  | .result => 0x014
  | .outLen => 0x018
  | .outNbits => 0x01C
  | .onePat => 0x020
  | .oneLen => 0x024
  | .zeroPat => 0x028
  | .zeroLen => 0x02C
  | .bufBytes => 0x030
  | .patMax => 0x034

/-- The register at an offset; offsets 0x038 to 0x0FFFF hold none (10_state R22, 20_memory R61). -/
def regAt : Nat → Option Reg
  | 0x000 => some .cmd
  | 0x004 => some .status
  | 0x008 => some .inLen
  | 0x00C => some .inNbits
  | 0x010 => some .argValue
  | 0x014 => some .result
  | 0x018 => some .outLen
  | 0x01C => some .outNbits
  | 0x020 => some .onePat
  | 0x024 => some .oneLen
  | 0x028 => some .zeroPat
  | 0x02C => some .zeroLen
  | 0x030 => some .bufBytes
  | 0x034 => some .patMax
  | _ => none

/-- What an aligned offset of the window is (20_memory R61). -/
inductive Target where
  /-- A register. -/
  | reg (r : Reg)
  /-- The word of IN_MEM from byte `i` on. -/
  | inWord (i : Nat)
  /-- The word of OUT_MEM from byte `i` on. -/
  | outWord (i : Nat)
  /-- No register and no buffer byte. -/
  | unmapped
  deriving DecidableEq, Repr

/-- The offset map of 20_memory R61: registers in the first 64 KiB, IN_MEM from 0x10000, OUT_MEM from 0x20000,
each buffer BUF_BYTES bytes, the rest unmapped. -/
def target (offset : BitVec 18) : Target :=
  match offset.toNat / 0x10000 with
  | 0 => match regAt (offset.toNat % 0x10000) with
    | some r => .reg r
    | none => .unmapped
  | 1 => if offset.toNat % 0x10000 < Config.bufBytes then .inWord (offset.toNat % 0x10000) else .unmapped
  | 2 => if offset.toNat % 0x10000 < Config.bufBytes then .outWord (offset.toNat % 0x10000) else .unmapped
  | _ => .unmapped

/-- `offset[1:0] = 0` (20_memory R64). -/
def aligned (offset : BitVec 18) : Bool := offset.extractLsb' 0 2 == 0

/-- A write of all four bytes (20_memory R64); where the bus has no strobes every write counts as one (U10; log 11). -/
def fullWord : Option (BitVec 4) → Bool
  | none => true
  | some strobes => strobes == 0xF

/-- The offset of a platform bus address that falls into the window at BASE (20_memory R60, 00_scope R7; log 4). -/
def windowOffset (addr : Nat) : Option (BitVec 18) :=
  if Config.base ≤ addr ∧ addr - Config.base < 2 ^ 18 then some (BitVec.ofNat 18 (addr - Config.base)) else none

/-- The current value of a register as a bus word, bits outside the significant ones 0 (10_state R22, R23, R25,
R44, R47, R48). -/
def State.readReg (s : State) : Reg → Word
  | .cmd => s.cmd
  | .status => s.statusWord
  | .inLen => s.inLen
  | .inNbits => s.inNbits
  | .argValue => s.argValue
  | .result => s.result
  | .outLen => s.outLen
  | .outNbits => s.outNbits
  | .onePat => s.onePat
  | .oneLen => s.oneLen.setWidth 32
  | .zeroPat => s.zeroPat
  | .zeroLen => s.zeroLen.setWidth 32
  | .bufBytes => BitVec.ofNat 32 Config.bufBytes
  | .patMax => BitVec.ofNat 32 Config.patMax

/-- A register whose value is unspecified while BUSY = 1 (10_state R23, 20_memory R68). -/
def Reg.isResult : Reg → Bool
  | .result | .outLen | .outNbits => true
  | .cmd | .status | .inLen | .inNbits | .argValue | .onePat | .oneLen | .zeroPat | .zeroLen | .bufBytes
  | .patMax => false

/-- What a write of `w` to a register does while BUSY = 0; `none` is a refused write (10_state R22, R23): CMD
issues (R24), RW registers take any value (R37, R38, R39), RW-L registers only before the configuration commit
(R43, R44), RO registers none. Bits outside the significant ones are ignored. -/
def State.writeReg (s : State) (r : Reg) (w : Word) : Option State :=
  match r with
  | .cmd => some (s.issue w)
  | .inLen => some { s with inLen := w }
  | .inNbits => some { s with inNbits := w }
  | .argValue => some { s with argValue := w }
  | .onePat => if s.cfgValid then none else some { s with onePat := w }
  | .oneLen => if s.cfgValid then none else some { s with oneLen := w.extractLsb' 0 6 }
  | .zeroPat => if s.cfgValid then none else some { s with zeroPat := w }
  | .zeroLen => if s.cfgValid then none else some { s with zeroLen := w.extractLsb' 0 6 }
  | .status | .result | .outLen | .outNbits | .bufBytes | .patMax => none

/-- The response to the host access at hand (log 8). -/
def State.respond (s : State) (r : Response) : State := { s with resp := some r }

/-- A read answered ok with an unspecified word: a fresh free draw (20_memory R68, U2; log 6, 7). -/
def State.respondFree (s : State) : State :=
  { s with resp := some (.readOk (Config.freeWord s.draws)), draws := s.draws + 1 }

/-- A read that gets a bus error: data 0 alongside it, nothing else changes (20_memory R66). -/
def State.refuseRead (s : State) : State := s.respond (.readError 0)

/-- A write that gets a bus error: nothing else changes (20_memory R66). -/
def State.refuseWrite (s : State) : State := s.respond .writeError

/-- IN_MEM with a bus word written at byte i (20_memory R69). -/
def State.writeInWord (s : State) (i : Nat) (w : Word) : State := { s with inMem := s.inMem.writeWord i w }

/-- A read of what an aligned offset is: exact, but for result state while BUSY = 1 (10_state R23, 20_memory R66,
R68, R69). -/
def State.readTarget (s : State) : Target → State
  | .reg r => if s.busy && r.isResult then s.respondFree else s.respond (.readOk (s.readReg r))
  | .inWord i => s.respond (.readOk (s.inMem.readWord i))
  | .outWord i => if s.busy then s.respondFree else s.respond (.readOk (s.outMem.readWord i))
  | .unmapped => s.refuseRead

/-- A full-word write, while BUSY = 0, to what an aligned offset is (10_state R23, 20_memory R65, R66, R69). -/
def State.writeTarget (s : State) (t : Target) (w : Word) : State :=
  match t with
  | .reg r =>
    match s.writeReg r w with
    | some t => t.respond .writeOk
    | none => s.refuseWrite
  | .inWord i => (s.writeInWord i w).respond .writeOk
  | .outWord _ => s.refuseWrite
  | .unmapped => s.refuseWrite

/-- One host access (20_memory section 3): a misaligned one is refused (R64), a narrow write too (R64), and every
write while BUSY = 1 (R67); the rest is judged by what the offset is. -/
def State.hostAccess (s : State) : Access → State
  | .read offset => if aligned offset then s.readTarget (target offset) else s.refuseRead
  | .write offset w strobes =>
    if aligned offset && fullWord strobes && !s.busy then s.writeTarget (target offset) w else s.refuseWrite

end Sys2Proof.Machine
end

