-- ==== Sys2Proof/Syntax.lean ====
section
/-! DEFINITION. The command set LCDC-1: one constructor per row of spec/opcode_table.json (30_encoding R91). -/

namespace Sys2Proof

/-- A decoded command (30_encoding R95). Only INT_TO_BITS and BITS_TO_INT have arguments in the command word;
every other operand is held in a register or buffer (10_state R20). -/
inductive Instr where
  /-- CONFIGURE: validate and commit the symbol patterns (R161). -/
  | configure
  /-- DECODE_BYTES: bytes to bits, line decode, bits to bytes (R191). -/
  | decodeBytes
  /-- DECODE_BITS: line-decode a packed bit sequence (R180). -/
  | decodeBits
  /-- BYTES_TO_BITS: expand a byte buffer to its bit sequence (R140). -/
  | bytesToBits
  /-- BITS_TO_BYTES: pack a bit sequence into bytes with right zero-padding (R141). -/
  | bitsToBytes
  /-- INT_TO_BITS w: the `width`-bit MSB-first form of ARG_VALUE (R142). -/
  | intToBits (width : Nat)
  /-- BITS_TO_INT: a bit sequence read as a number, with `invert` and `reverse` (R143). -/
  | bitsToInt (inv rev : Bool)
  deriving DecidableEq, Repr

end Sys2Proof
end

