-- ==== Sys2Proof/WellFormed.lean ====
section
/-! DEFINITION. Which commands have a command word (30_encoding R93, R98). -/

namespace Sys2Proof

/-- A command is well formed when its arguments fit their fields of the command word: WIDTH is a 6-bit number,
0 to `WIDTH_MAX` = 63, and 0 is legal (30_encoding R93; log 12). No other argument can fail to fit. -/
def Instr.wellFormed : Instr → Bool
  | .configure => true
  | .decodeBytes => true
  | .decodeBits => true
  | .bytesToBits => true
  | .bitsToBytes => true
  | .intToBits width => decide (width ≤ Config.widthMax)
  | .bitsToInt _ _ => true

end Sys2Proof
end

