-- ==== Sys2Proof/Decode.lean ====
section
/-! DEFINITION. The command word (30_encoding R90): its fields, `decodeCmd` (R95), total on every 32-bit word and
rejecting by name, and the encoder from the same table (R90, R98). -/

namespace Sys2Proof

/-- Why a word is illegal: the four grounds of 30_encoding R96. Every one of them completes with
ILLEGAL_COMMAND (0x3); the names are the model's. -/
inductive DecodeError where
  /-- One of bits [7:6] or [31:14] is set (R94). -/
  | reservedBitSet
  /-- OP is 0x0 or in 0x8..0xF (R91, R96). -/
  | reservedOpcode
  /-- INV or REV is set and OP is not 0x7 (R92). -/
  | flagOutsideBitsToInt
  /-- WIDTH is non-zero and OP is not 0x6 (R93). -/
  | widthOutsideIntToBits
  deriving DecidableEq, Repr

/-- OP, bits [3:0] (R90). -/
def opField (w : Word) : BitVec 4 := w.extractLsb' 0 4

/-- INV, bit [4] (R90, R92). -/
def invField (w : Word) : Bool := w.getLsbD 4

/-- REV, bit [5] (R90, R92). -/
def revField (w : Word) : Bool := w.getLsbD 5

/-- The reserved bits [7:6] (R94). -/
def reservedLowField (w : Word) : BitVec 2 := w.extractLsb' 6 2

/-- WIDTH, bits [13:8] (R90, R93). -/
def widthField (w : Word) : BitVec 6 := w.extractLsb' 8 6

/-- The reserved bits [31:14] (R94). -/
def reservedHighField (w : Word) : BitVec 18 := w.extractLsb' 14 18

/-- A command with no arguments in its word: INV, REV and WIDTH must be 0 (R95, OP 0x1 to 0x5). -/
def decodePlain (i : Instr) (w : Word) : Except DecodeError Instr :=
  if invField w || revField w then .error .flagOutsideBitsToInt
  else if widthField w ≠ 0 then .error .widthOutsideIntToBits
  else .ok i

/-- INT_TO_BITS: WIDTH is its argument, INV and REV must be 0 (R95, OP 0x6). -/
def decodeIntToBits (w : Word) : Except DecodeError Instr :=
  if invField w || revField w then .error .flagOutsideBitsToInt
  else .ok (.intToBits (widthField w).toNat)

/-- BITS_TO_INT: INV and REV are its arguments, WIDTH must be 0 (R95, OP 0x7). -/
def decodeBitsToInt (w : Word) : Except DecodeError Instr :=
  if widthField w ≠ 0 then .error .widthOutsideIntToBits
  else .ok (.bitsToInt (invField w) (revField w))

/-- `decodeCmd` of 30_encoding R95: total on every word. -/
def decodeCmd (w : Word) : Except DecodeError Instr :=
  if reservedLowField w ≠ 0 ∨ reservedHighField w ≠ 0 then .error .reservedBitSet
  else match (opField w).toNat with
    | 0x1 => decodePlain .configure w
    | 0x2 => decodePlain .decodeBytes w
    | 0x3 => decodePlain .decodeBits w
    | 0x4 => decodePlain .bytesToBits w
    | 0x5 => decodePlain .bitsToBytes w
    | 0x6 => decodeIntToBits w
    | 0x7 => decodeBitsToInt w
    | _ => .error .reservedOpcode

/-- OP of each command (30_encoding R91). -/
def Instr.opcode : Instr → BitVec 4
  | .configure => 0x1
  | .decodeBytes => 0x2
  | .decodeBits => 0x3
  | .bytesToBits => 0x4
  | .bitsToBytes => 0x5
  | .intToBits _ => 0x6
  | .bitsToInt _ _ => 0x7

/-- The pattern `000000000000000000 wwwwww 00 r i oooo` of 30_encoding R90, most significant bit first. -/
def assembleWord (op : BitVec 4) (inv rev : Bool) (width : BitVec 6) : Word :=
  0#18 ++ width ++ 0#2 ++ BitVec.ofBool rev ++ BitVec.ofBool inv ++ op

/-- The command word of a well-formed command (30_encoding R98). -/
def encode (i : Instr) : Word :=
  match i with
  | .intToBits width => assembleWord i.opcode false false (BitVec.ofNat 6 width)
  | .bitsToInt inv rev => assembleWord i.opcode inv rev 0
  | .configure | .decodeBytes | .decodeBits | .bytesToBits | .bitsToBytes => assembleWord i.opcode false false 0

/-- The host's entry to the decoder: the command whose bits are `w`, in the opcode table's numbering, of which the
table gives `nbits`. A command is one 32-bit register word, which has no byte order of its own (20_memory R69,
30_encoding R101), so a row of more than 32 bits is no command (log 13). -/
def decodeTableWord (nbits w : Nat) : Option Instr :=
  if nbits ≤ 32 then
    match decodeCmd (BitVec.ofNat 32 (w % 2 ^ nbits)) with
    | .ok i => some i
    | .error _ => none
  else none

end Sys2Proof
end

