-- ==== Sys2Proof/Machine/BitCodec.lean ====
section
/-! DEFINITION. The four BitCodec commands (40_bitcodec section 3): what their completion does. -/

namespace Sys2Proof.Machine

/-- BYTES_TO_BITS (40_bitcodec R140). -/
def execBytesToBits (s : State) : Host.Outcome State Fault Refusal :=
  if s.inLenInRange then .next ((s.writeBits (bytesToBits s.inputBytes)).succeed false)
  else .next (s.raiseErr .argumentRange)

/-- BITS_TO_BYTES (40_bitcodec R141): the padding notice reports a partial last byte. -/
def execBitsToBytes (s : State) : Host.Outcome State Fault Refusal :=
  if s.inNbitsInRange then .next ((s.writeBits s.inputBits).succeed (padNotice s.inNbits.toNat))
  else .next (s.raiseErr .argumentRange)

/-- INT_TO_BITS w (40_bitcodec R142): ARG_VALUE in w bits, or ENCODING_ERROR; PAD stays 0. -/
def execIntToBits (width : Nat) (s : State) : Host.Outcome State Fault Refusal :=
  match intToBits s.argValue.toNat width with
  | .error _ => .next (s.raiseErr .encodingError)
  | .ok bits => .next ((s.writeBits bits).succeed false)

/-- BITS_TO_INT inv, rev (40_bitcodec R143): RESULT only; OUT_MEM and the output lengths stay. -/
def execBitsToInt (inv rev : Bool) (s : State) : Host.Outcome State Fault Refusal :=
  if s.inNbitsFitResult then .next ((s.writeResult (bitsToInt s.inputBits inv rev)).succeed false)
  else .next (s.raiseErr .argumentRange)

end Sys2Proof.Machine
end

