-- ==== Sys2Proof/Machine/LineDecoder.lean ====
section
/-! DEFINITION. The two LineDecoder commands (41_linedecoder R161, R180): what their completion does. -/

namespace Sys2Proof.Machine

/-- CONFIGURE (41_linedecoder R161): CONFIG_LOCKED is checked before the lengths (60_exceptions R208). -/
def execConfigure (s : State) : Host.Outcome State Fault Refusal :=
  if s.cfgValid then .next (s.raiseErr .configLocked)
  else if s.patternsLegal then .next (s.commitConfig.succeed false)
  else .next (s.raiseErr .configurationError)

/-- DECODE_BITS (41_linedecoder R180): NOT_CONFIGURED is checked before the range (60_exceptions R208); PAD stays 0.
A committed pattern of illegal length, which no reachable state has, faults (30_encoding R99; log 9). -/
def execDecodeBits (s : State) : Host.Outcome State Fault Refusal :=
  if !s.cfgValid then .next (s.raiseErr .notConfigured)
  else if !s.inNbitsInRange then .next (s.raiseErr .argumentRange)
  else if s.patternsLegal then .next ((s.writeBits (lineDecode s.inputBits s.oneSeq s.zeroSeq)).succeed false)
  else .fault .illegalPatternLength

end Sys2Proof.Machine
end

