-- ==== Sys2Proof/Machine/PayloadPipeline.lean ====
section
/-! DEFINITION. The PayloadPipeline command (42_pipeline R191): what its completion does. -/

namespace Sys2Proof.Machine

/-- The decoded bits of the input bytes (42_pipeline R190, steps 1 and 2; R191). -/
def State.decodedPayload (s : State) : BitSeq := lineDecode (bytesToBits s.inputBytes) s.oneSeq s.zeroSeq

/-- DECODE_BYTES (42_pipeline R191): NOT_CONFIGURED is checked before the range (60_exceptions R208); the padding
notice reports a partial last byte. A committed pattern of illegal length, which no reachable state has, faults
(30_encoding R99; log 9). -/
def execDecodeBytes (s : State) : Host.Outcome State Fault Refusal :=
  if !s.cfgValid then .next (s.raiseErr .notConfigured)
  else if !s.inLenInRange then .next (s.raiseErr .argumentRange)
  else if s.patternsLegal then .next ((s.writeBits s.decodedPayload).succeed (padNotice s.decodedPayload.length))
  else .fault .illegalPatternLength

end Sys2Proof.Machine
end

