-- ==== Sys2Proof/Machine/Dispatch.lean ====
section
/-! DEFINITION. `Execute`'s dispatch (30_encoding R97): one arm per command; each meaning is the whole completion
step of that command (10_state R53). -/

namespace Sys2Proof.Machine

def exec (i : Instr) (s : State) : Host.Outcome State Fault Refusal :=
  match i with
  | .configure => Sys2Proof.Machine.execConfigure s
  | .decodeBytes => Sys2Proof.Machine.execDecodeBytes s
  | .decodeBits => Sys2Proof.Machine.execDecodeBits s
  | .bytesToBits => Sys2Proof.Machine.execBytesToBits s
  | .bitsToBytes => Sys2Proof.Machine.execBitsToBytes s
  | .intToBits width => Sys2Proof.Machine.execIntToBits width s
  | .bitsToInt inv rev => Sys2Proof.Machine.execBitsToInt inv rev s

end Sys2Proof.Machine
end

