-- ==== Sys2Proof/Machine/Engine.lean ====
section
/-! DEFINITION. The engine's one step (10_state R30, R53). -/

namespace Sys2Proof.Machine

/-- The completion step (10_state R53): the word held in CMD is decoded now, not at issue (30_encoding R95), and an
illegal one raises ILLEGAL_COMMAND (R96). -/
def completion (s : State) : Host.Outcome State Fault Refusal :=
  match decodeCmd s.cmd with
  | .ok i => exec i s
  | .error _ => .next (s.raiseErr .illegalCommand)

/-- The engine's turn: the completion while BUSY = 1, and no step while BUSY = 0 (10_state R30, 60_exceptions R225). -/
def engineTurn (s : State) : Host.Outcome State Fault Refusal :=
  if s.busy then completion s else .next s

end Sys2Proof.Machine
end

