-- ==== Sys2Proof/Machine/Step.lean ====
section
/-! DEFINITION. One step of the whole block: the oldest entry of the agenda takes effect, and with nothing left on
it the engine has its turn (00_scope R6, 20_memory R75, 60_exceptions R209; log 1). -/

namespace Sys2Proof.Machine

/-- One event takes effect. -/
def State.take (s : State) : Event → Host.Outcome State Fault Refusal
  | .access a => .next (s.hostAccess a)
  | .engine => engineTurn s
  | .reset => .next s.resetEvent

/-- One step (log 1). With an empty agenda the engine has its turn, so a command in flight is always completed
(weak fairness, 70_reset R241), and an idle block stays as it is (60_exceptions R225). -/
def step (s : State) : Host.Outcome State Fault Refusal :=
  match s.agenda with
  | [] => engineTurn s
  | e :: rest => (s.withAgenda rest).take e

/-- The state right after the issue of a command word (10_state R52), with the engine's turn next: LCDC fetches no
instruction (10_state R21), so the word CMD holds is the instruction the next step runs (log 2). -/
def State.withFetchWord (s : State) (nbits w : Nat) : State :=
  (s.issue (BitVec.ofNat 32 (w % 2 ^ nbits))).withAgenda (.engine :: s.agenda)

end Sys2Proof.Machine
end

