-- ==== Sys2Proof/Machine/HostProgram.lean ====
section
/-! DEFINITION. The host programs of 30_encoding R110, the bus transactions they expand to (R111), and a host that runs
one against the block. They are no commands of the block; they say which accesses stand on the agenda (log 15). -/

namespace Sys2Proof.Machine

/-! ### Statements -/

/-- `<loc>` of a statement (30_encoding R110). -/
inductive Loc where
  /-- A register name. -/
  | reg (r : Reg)
  /-- `IN[j]`, the word at 0x10000 + 4j. -/
  | inWord (j : Nat)
  /-- `OUT[j]`, the word at 0x20000 + 4j. -/
  | outWord (j : Nat)
  deriving DecidableEq, Repr

/-- The offset of a location from BASE, a number with no bound (30_encoding R110, R111): nothing wraps. -/
def Loc.offset : Loc → Nat
  | .reg r => r.offset
  | .inWord j => 0x10000 + 4 * j
  | .outWord j => 0x20000 + 4 * j

/-- A statement of a host program (30_encoding R110). -/
inductive Stmt where
  /-- `WR <loc>, <imm32>` -/
  | wr (loc : Loc) (imm : Word)
  /-- `RD <loc>` -/
  | rd (loc : Loc)
  /-- `ISSUE <command>` -/
  | issue (i : Instr)
  /-- `WAIT` -/
  | wait
  /-- `RUN <command>` -/
  | run (i : Instr)
  /-- `LOADPAT <one>, <zero>` -/
  | loadPat (one zero : BitSeq)
  /-- `LOADBYTES <b0> <b1> ...` -/
  | loadBytes (bs : List Byte)
  /-- `LOADBITS <bitstring>` -/
  | loadBits (bits : BitSeq)
  deriving DecidableEq, Repr

/-- A bit string that LOADPAT takes: 1 to 32 characters (30_encoding R110). -/
def legalPatText (s : BitSeq) : Bool := decide (1 ≤ s.length ∧ s.length ≤ Config.patMax)

/-- A length that the 32-bit value of a WR can hold (30_encoding R110, `<imm32>`). -/
def fitsImm (n : Nat) : Bool := decide (n < 2 ^ 32)

/-- Which statements R110 has: a command with a command word (its width 0 to 63), patterns of 1 to 32 bits, a count
that the WR of the last line can write. -/
def Stmt.wellFormed : Stmt → Bool
  | .wr _ _ => true
  | .rd _ => true
  | .issue i => i.wellFormed
  | .wait => true
  | .run i => i.wellFormed
  | .loadPat one zero => legalPatText one && legalPatText zero
  | .loadBytes bs => fitsImm bs.length
  | .loadBits bits => fitsImm bits.length

/-! ### Transactions -/

/-- One bus transaction `(R|W, offset, data)`, the offset relative to BASE (30_encoding R111). -/
inductive Transaction where
  /-- `(R, offset)` -/
  | read (offset : Nat)
  /-- `(W, offset, data)` -/
  | write (offset : Nat) (data : Word)
  deriving DecidableEq, Repr

/-- A 32-bit access of all four bytes at an offset of the window; `none` for an offset past the window's 2^18 bytes,
which never reaches the block (20_memory R60; log 4). -/
def Transaction.access : Transaction → Option Access
  | .read offset => if offset < 2 ^ 18 then some (.read (BitVec.ofNat 18 offset)) else none
  | .write offset data => if offset < 2 ^ 18 then some (.write (BitVec.ofNat 18 offset) data (some 0xF)) else none

/-- What a transaction puts on the agenda. -/
def Transaction.events (t : Transaction) : List Event :=
  match t.access with
  | some a => [.access a]
  | none => []

/-- What a transaction does to the block. -/
def Transaction.perform (t : Transaction) (s : State) : State :=
  match t.access with
  | some a => s.hostAccess a
  | none => s

/-- `WR <loc>, <imm32>` as a transaction. -/
def writeLoc (loc : Loc) (w : Word) : Transaction := .write loc.offset w

/-- `RD <loc>` as a transaction. -/
def readLoc (loc : Loc) : Transaction := .read loc.offset

/-! ### Expansion -/

/-- A primitive of a host: one transaction, or the loop of WAIT. -/
inductive HostOp where
  /-- One transaction. -/
  | send (t : Transaction)
  /-- Repeat `RD STATUS` until bit 0 reads 0 (30_encoding R110, WAIT). -/
  | pollIdle
  deriving DecidableEq, Repr

/-- The transaction a primitive makes at each of its turns. -/
def HostOp.transaction : HostOp → Transaction
  | .send t => t
  | .pollIdle => readLoc (.reg .status)

/-- Word j of a byte list, big-endian, missing bytes 0 (30_encoding R110, LOADBYTES). -/
def packedWord (bs : List Byte) (j : Nat) : Word :=
  bs.getD (4 * j) 0 ++ bs.getD (4 * j + 1) 0 ++ bs.getD (4 * j + 2) 0 ++ bs.getD (4 * j + 3) 0

/-- The IN_MEM writes of LOADBYTES and LOADBITS (30_encoding R110). -/
def loadOps (bs : List Byte) : List HostOp :=
  (List.range ((bs.length + 3) / 4)).map (fun j => .send (writeLoc (.inWord j) (packedWord bs j)))

/-- `val(s)`: a bit string read MSB-first, as a 32-bit word (30_encoding R110). -/
def patternValue (s : BitSeq) : Word := BitVec.ofNat 32 (bitsToInt s false false)

/-- The primitives of one statement, line by line of the table of 30_encoding R110. -/
def Stmt.primitives : Stmt → List HostOp
  | .wr loc imm => [.send (writeLoc loc imm)]
  | .rd loc => [.send (readLoc loc)]
  | .issue i => [.send (writeLoc (.reg .cmd) (encode i))]
  | .wait => [.pollIdle]
  | .run i => [.send (writeLoc (.reg .cmd) (encode i)), .pollIdle]
  | .loadPat one zero =>
    [.send (writeLoc (.reg .onePat) (patternValue one)),
     .send (writeLoc (.reg .oneLen) (BitVec.ofNat 32 one.length)),
     .send (writeLoc (.reg .zeroPat) (patternValue zero)),
     .send (writeLoc (.reg .zeroLen) (BitVec.ofNat 32 zero.length))]
  | .loadBytes bs => loadOps bs ++ [.send (writeLoc (.reg .inLen) (BitVec.ofNat 32 bs.length))]
  | .loadBits bits => loadOps (bitsToBytes bits) ++ [.send (writeLoc (.reg .inNbits) (BitVec.ofNat 32 bits.length))]

/-- The primitives of a statement that R110 has; `none` for one it does not have. -/
def Stmt.ops (st : Stmt) : Option (List HostOp) := if st.wellFormed then some st.primitives else none

/-- The primitives of a host program, in order; `none` where one of its lines is no statement. -/
def programOps : List Stmt → Option (List HostOp)
  | [] => some []
  | st :: rest =>
    match st.ops, programOps rest with
    | some ops, some more => some (ops ++ more)
    | _, _ => none

/-- The transactions of one primitive, a WAIT among them reading BUSY = 1 `polls` times before it reads 0: `polls + 1`
reads of STATUS (30_encoding R111). -/
def HostOp.transactions (polls : Nat) : HostOp → List Transaction
  | .send t => [t]
  | .pollIdle => List.replicate (polls + 1) (readLoc (.reg .status))

/-- An encoding of a host program: every statement beside the number of BUSY polls of its own WAIT, which has no bearing
on any other's (30_encoding R111). -/
def programTransactions : List (Stmt × Nat) → Option (List Transaction)
  | [] => some []
  | (st, polls) :: rest =>
    match st.ops, programTransactions rest with
    | some ops, some more => some (ops.flatMap (HostOp.transactions polls) ++ more)
    | _, _ => none

/-! ### A host that runs a program -/

/-- Whose turn it is: the host's next transaction, or the engine's step (00_scope R6, 20_memory R75). -/
inductive Turn where
  /-- The host makes its next transaction. -/
  | host
  /-- The engine has its turn. -/
  | engine
  deriving DecidableEq, Repr

/-- What a run of a host has done: the transactions made, the agenda entries they and the engine's turns are, the
primitives left and the block's state. -/
structure HostRun where
  trace : List Transaction
  events : List Event
  left : List HostOp
  state : State
  deriving DecidableEq, Repr

/-- The last response was a word whose bit 0 is 0 (30_encoding R110, WAIT). -/
def State.readIdle (s : State) : Bool :=
  match s.resp with
  | some (.readOk d) => !d.getLsbD 0
  | _ => false

/-- Whether a primitive has ended with the transaction that led to `t`. -/
def HostOp.ended (op : HostOp) (t : State) : Bool :=
  match op with
  | .send _ => true
  | .pollIdle => t.readIdle

/-- The primitives left after a transaction of the first of them that led to `t`. -/
def opsAfter (op : HostOp) (ops : List HostOp) (t : State) : List HostOp := if op.ended t then ops else op :: ops

/-- A run of the host's primitives against the block under a schedule of turns, so that each WAIT ends when its own
last poll reads BUSY = 0 (30_encoding R110, R111). A host with nothing left makes no transaction, and a run stops where
the engine's turn answers no next state. -/
def hostRun : List Turn → List HostOp → State → HostRun
  | [], ops, s => { trace := [], events := [], left := ops, state := s }
  | .engine :: turns, ops, s =>
    match engineTurn s with
    | .next t => { hostRun turns ops t with events := .engine :: (hostRun turns ops t).events }
    | _ => { trace := [], events := [.engine], left := ops, state := s }
  | .host :: turns, [], s => hostRun turns [] s
  | .host :: turns, op :: ops, s =>
    let t := op.transaction.perform s
    let r := hostRun turns (opsAfter op ops t) t
    { r with trace := op.transaction :: r.trace, events := op.transaction.events ++ r.events }

/-! ### Text -/

/-- How a command is written in a host program (30_encoding R110). -/
def commandText : Instr → String
  | .configure => "CONFIGURE"
  | .decodeBytes => "DECODE_BYTES"
  | .decodeBits => "DECODE_BITS"
  | .bytesToBits => "BYTES_TO_BITS"
  | .bitsToBytes => "BITS_TO_BYTES"
  | .intToBits width => "INT_TO_BITS " ++ toString width
  | .bitsToInt false false => "BITS_TO_INT"
  | .bitsToInt true false => "BITS_TO_INT inv"
  | .bitsToInt false true => "BITS_TO_INT rev"
  | .bitsToInt true true => "BITS_TO_INT inv, rev"

end Sys2Proof.Machine
end

