-- ==== Sys2Proof/Safety.lean ====
section
/-! DEFINITION. What counts as a good state and a good outcome, in the words the statements use: the consistency
the spec gives STATUS, the output registers, the committed patterns and the buffers. -/

namespace Sys2Proof.Machine

/-- The next state of an outcome, if there is one. -/
def nextOf : Host.Outcome State Fault Refusal → Option State
  | .next s => some s
  | .fault _ => none
  | .refused _ => none

/-- An error is flagged exactly when a code is held, and only codes 0 to 6 are produced (10_state R32, R35). -/
abbrev State.errorConsistent (s : State) : Prop := (s.err = true ↔ s.errCode ≠ 0) ∧ s.errCode.toNat ≤ 6

/-- While a command is in flight nothing is reported of it (10_state R52), an error and a notice are reported only
of a completed command, and never both (10_state R31, R33). -/
abbrev State.statusConsistent (s : State) : Prop :=
  (s.busy = true → s.done = false) ∧ (s.err = true → s.done = true) ∧ (s.pad = true → s.done = true) ∧
    ¬(s.pad = true ∧ s.err = true)

/-- `OUT_LEN = ceil8(OUT_NBITS)`, and the output fits OUT_MEM (10_state R41, R50). -/
abbrev State.outputConsistent (s : State) : Prop :=
  s.outLen.toNat = ceil8 s.outNbits.toNat ∧ s.outLen.toNat ≤ Config.bufBytes

/-- Committed patterns have legal lengths (41_linedecoder R160, R161). -/
abbrev State.configConsistent (s : State) : Prop := s.cfgValid = true → s.patternsLegal = true

/-- Both buffers are in canonical form and inside their BUF_BYTES bytes (10_state R49, R50; log 5). -/
abbrev State.buffersConsistent (s : State) : Prop :=
  s.inMem.wf ∧ s.inMem.within Config.bufBytes ∧ s.outMem.wf ∧ s.outMem.within Config.bufBytes

/-- The invariant of LCDC. -/
structure State.Inv (s : State) : Prop where
  error : s.errorConsistent
  status : s.statusConsistent
  output : s.outputConsistent
  config : s.configConsistent
  buffers : s.buffersConsistent

/-- What a command leaves of its operand side: CMD, the operand and pattern registers, every byte of IN_MEM, and the
model's agenda and last response (10_state R49, R56, R57). -/
structure State.SameOperands (s t : State) : Prop where
  cmd : t.cmd = s.cmd
  inLen : t.inLen = s.inLen
  inNbits : t.inNbits = s.inNbits
  argValue : t.argValue = s.argValue
  onePat : t.onePat = s.onePat
  oneLen : t.oneLen = s.oneLen
  zeroPat : t.zeroPat = s.zeroPat
  zeroLen : t.zeroLen = s.zeroLen
  inBytes : ∀ i, t.inMem.read i = s.inMem.read i
  agenda : t.agenda = s.agenda
  resp : t.resp = s.resp

/-- The output side is unchanged: OUT_LEN, OUT_NBITS and every byte of OUT_MEM (10_state R57, cells "-"). -/
structure State.SameOutput (s t : State) : Prop where
  outLen : t.outLen = s.outLen
  outNbits : t.outNbits = s.outNbits
  outBytes : ∀ i, t.outMem.read i = s.outMem.read i

/-- STATUS after a completion without error (10_state R53): DONE, not BUSY, no error, PAD as given. -/
structure State.CompletedOk (t : State) (pad : Bool) : Prop where
  busy : t.busy = false
  done : t.done = true
  err : t.err = false
  errCode : t.errCode = 0
  pad : t.pad = pad

/-- OUT_MEM holds a bit sequence packed MSB-first from OUT[0], its pad bits 0, with both output lengths
(20_memory R62, R63). -/
structure State.HoldsOutput (t : State) (bits : BitSeq) : Prop where
  nbits : t.outNbits.toNat = bits.length
  len : t.outLen.toNat = (bits.length + 7) / 8
  packed : ∀ k (h : k < bits.length), t.outMem.bitAt k = bits[k]
  padBits : ∀ k, bits.length ≤ k → k < 8 * t.outLen.toNat → t.outMem.bitAt k = false

/-- A command that writes output left everything but OUT_MEM, OUT_LEN, OUT_NBITS and STATUS as it was, and
CFG_VALID too (10_state R57). -/
structure State.WroteOutputOnly (s t : State) : Prop where
  operands : s.SameOperands t
  result : t.result = s.result
  cfgValid : t.cfgValid = s.cfgValid

/-- `s` after a completion that raised the error `code`: STATUS changed and nothing else (60_exceptions R200). -/
def State.failedWith (s : State) (code : BitVec 4) : State :=
  { s with err := true, errCode := code, pad := false, done := true, busy := false }

/-- `s` after a completion without error and without padding notice that wrote nothing but STATUS (10_state R53). -/
def State.succeededSilently (s : State) : State :=
  { s with err := false, errCode := 0, pad := false, done := true, busy := false }

/-- The first error that applies to a decoded command, in the order of 60_exceptions R208, as its ERR_CODE. -/
def State.firstError (s : State) : Instr → Option (BitVec 4)
  | .configure =>
    if s.cfgValid = true then some 0x6
    else if s.oneLen.toNat < 1 ∨ 32 < s.oneLen.toNat ∨ s.zeroLen.toNat < 1 ∨ 32 < s.zeroLen.toNat then some 0x1
    else none
  | .decodeBytes =>
    if s.cfgValid = false then some 0x5 else if Config.bufBytes < s.inLen.toNat then some 0x4 else none
  | .decodeBits =>
    if s.cfgValid = false then some 0x5 else if 8 * Config.bufBytes < s.inNbits.toNat then some 0x4 else none
  | .bytesToBits => if Config.bufBytes < s.inLen.toNat then some 0x4 else none
  | .bitsToBytes => if 8 * Config.bufBytes < s.inNbits.toNat then some 0x4 else none
  | .intToBits width => if 2 ^ width ≤ s.argValue.toNat then some 0x2 else none
  | .bitsToInt _ _ => if 32 < s.inNbits.toNat then some 0x4 else none

/-- The offsets with no register and no buffer byte (20_memory R61). -/
def unmappedOffset (o : Nat) : Prop :=
  (0x38 ≤ o ∧ o < 0x10000) ∨ (0x10000 + Config.bufBytes ≤ o ∧ o < 0x20000) ∨
    (0x20000 + Config.bufBytes ≤ o ∧ o < 0x30000) ∨ 0x30000 ≤ o

/-- Before the first issue after a reset, nothing has been reported, committed or output (10_state R31). -/
def State.untouchedBeforeFirstIssue (s : State) : Prop :=
  s.busy = false → s.done = false →
    s.cmd = 0 ∧ s.err = false ∧ s.pad = false ∧ s.errCode = 0 ∧ s.cfgValid = false ∧ s.result = 0 ∧ s.outLen = 0 ∧
      s.outNbits = 0

/-- A step that does not stop the machine. -/
def Completes (o : Host.Outcome State Fault Refusal) : Prop := ∃ t, o = .next t

end Sys2Proof.Machine
end

