-- ==== Sys2Proof/Certificates/Slice0/Obligations.lean ====
section
/-! DEFINITION. The statements for the provers. Each docstring names the rule of spec/ it formalises, or the log entry
of a choice of the model's. -/

open Sys2Proof Sys2Proof.Machine

/-! ### The command word -/

/-- Every well-formed command is what its word decodes to (30_encoding R95, R98). -/
def Obligations.DecodeOfEncodeIsTheCommand : Prop :=
  ∀ i : Instr, i.wellFormed = true → decodeCmd (encode i) = .ok i

/-- R98: these words are legal and no other, with the command each stands for; there are 73. -/
def Obligations.LegalCommandWordsAreTheTable : Prop :=
  (∀ (w : Word) (i : Instr), decodeCmd w = .ok i ↔
    (w = 0x00000001#32 ∧ i = .configure) ∨ (w = 0x00000002#32 ∧ i = .decodeBytes) ∨
    (w = 0x00000003#32 ∧ i = .decodeBits) ∨ (w = 0x00000004#32 ∧ i = .bytesToBits) ∨
    (w = 0x00000005#32 ∧ i = .bitsToBytes) ∨
    (∃ v : Nat, v ≤ 63 ∧ w = BitVec.ofNat 32 (0x00000006 + v * 2 ^ 8) ∧ i = .intToBits v) ∨
    (w = 0x00000007#32 ∧ i = .bitsToInt false false) ∨ (w = 0x00000017#32 ∧ i = .bitsToInt true false) ∨
    (w = 0x00000027#32 ∧ i = .bitsToInt false true) ∨ (w = 0x00000037#32 ∧ i = .bitsToInt true true)) ∧
  ∃ words : List Word, words.length = 73 ∧ words.Nodup ∧ ∀ w, w ∈ words ↔ ∃ i, decodeCmd w = .ok i

/-- R96: the illegal words are exactly these, and each completes with ILLEGAL_COMMAND, changing only STATUS. -/
def Obligations.IllegalWordsCompleteWithIllegalCommand : Prop :=
  ∀ w : Word,
    ((∀ i, decodeCmd w ≠ .ok i) ↔
      w.extractLsb' 0 4 = 0x0#4 ∨ 0x8 ≤ (w.extractLsb' 0 4).toNat ∨
      w.extractLsb' 6 2 ≠ 0#2 ∨ w.extractLsb' 14 18 ≠ 0#18 ∨
      ((w.getLsbD 4 = true ∨ w.getLsbD 5 = true) ∧ w.extractLsb' 0 4 ≠ 0x7#4) ∨
      (w.extractLsb' 8 6 ≠ 0#6 ∧ w.extractLsb' 0 4 ≠ 0x6#4)) ∧
    ((∀ i, decodeCmd w ≠ .ok i) → ∀ s : State, s.busy = true → s.cmd = w →
      engineTurn s = .next (s.failedWith 0x3))

/-- Words written out bit by bit from the encoding of 30_encoding R90, R98 decode to their commands. -/
def Obligations.WordsWrittenFromTheTableDecode : Prop :=
  decodeCmd 0b00000000000000000000000000000001#32 = .ok .configure ∧
  decodeCmd 0b00000000000000000000000000000010#32 = .ok .decodeBytes ∧
  decodeCmd 0b00000000000000000000000000000100#32 = .ok .bytesToBits ∧
  decodeCmd 0b00000000000000000011111100000110#32 = .ok (.intToBits 63) ∧
  decodeCmd 0b00000000000000000000000000010111#32 = .ok (.bitsToInt true false) ∧
  decodeCmd 0b00000000000000000000000000100111#32 = .ok (.bitsToInt false true)

/-! ### The step -/

/-- A STEP RUNS THE DECODED COMMAND: while BUSY = 1 and it is the engine's turn (nothing else is left to arrive, or its
turn comes first; log 1), the step is `exec` of the well-formed command CMD decodes to. -/
def Obligations.StepRunsTheDecodedCommand : Prop :=
  ∀ (s : State) (i : Instr), s.busy = true → decodeCmd s.cmd = .ok i →
    i.wellFormed = true ∧
    (s.agenda = [] → step s = exec i s) ∧
    (∀ rest, s.agenda = .engine :: rest → step s = exec i (s.withAgenda rest))

/-- While BUSY = 0 the engine has no step (10_state R30, 60_exceptions R225); that the block's step then answers the
same state is the model's choice (log 1). -/
def Obligations.IdleEngineChangesNothing : Prop :=
  ∀ s : State, s.busy = false →
    (s.agenda = [] → step s = .next s) ∧ (∀ rest, s.agenda = .engine :: rest → step s = .next (s.withAgenda rest))

/-- The oldest access or reset takes effect, one at a time, whether or not a command is in flight (20_memory R75,
60_exceptions R209; the agenda is the model's, log 1). -/
def Obligations.StepTakesTheOldestArrival : Prop :=
  ∀ (s : State) (rest : List Event),
    (∀ a, s.agenda = .access a :: rest → step s = .next ((s.withAgenda rest).hostAccess a)) ∧
    (s.agenda = .reset :: rest → step s = .next (s.withAgenda rest).resetEvent)

/-- R52: a whole-word write of CMD, its strobes all set or the bus without any (20_memory R64, U10), issues while
BUSY = 0, whatever the word, an illegal one being reported at its completion, and is refused while BUSY = 1. -/
def Obligations.WriteOfCmdIssuesTheCommand : Prop :=
  ∀ (s : State) (w : Word) (strobes : Option (BitVec 4)), strobes = none ∨ strobes = some 0xF#4 →
    (s.busy = false →
      s.hostAccess (.write 0x000#18 w strobes) =
        { s with cmd := w, done := false, err := false, pad := false, errCode := 0, busy := true, resp := some .writeOk }) ∧
    (s.busy = false → (∀ i, decodeCmd w ≠ .ok i) →
      engineTurn (s.hostAccess (.write 0x000#18 w strobes)) =
        .next ((s.hostAccess (.write 0x000#18 w strobes)).failedWith 0x3)) ∧
    (s.busy = true → s.hostAccess (.write 0x000#18 w strobes) = { s with resp := some .writeError })

/-- Reset (70_reset R230, R232): from any state, a command in flight included, every register is at its reset value,
the decoder is unconfigured, the decodes fail with NOT_CONFIGURED and the BitCodec commands work at once. -/
def Obligations.ResetSetsEveryRegister : Prop :=
  ∀ (s : State) (rest : List Event), s.agenda = .reset :: rest →
    ∃ t, step s = .next t ∧ t.agenda = rest ∧
      t.cmd = 0 ∧ t.statusWord = 0 ∧ t.inLen = 0 ∧ t.inNbits = 0 ∧ t.argValue = 0 ∧ t.result = 0 ∧ t.outLen = 0 ∧
      t.outNbits = 0 ∧ t.onePat = 0 ∧ t.oneLen = 0 ∧ t.zeroPat = 0 ∧ t.zeroLen = 0 ∧
      t.busy = false ∧ t.done = false ∧ t.err = false ∧ t.pad = false ∧ t.cfgValid = false ∧ t.errCode = 0 ∧
      t.readReg .bufBytes = s.readReg .bufBytes ∧ t.readReg .patMax = 0x00000020#32 ∧
      exec .decodeBits t = .next (t.failedWith 0x5) ∧ exec .decodeBytes t = .next (t.failedWith 0x5) ∧
      (∃ u, exec .bytesToBits t = .next u ∧ u.CompletedOk false) ∧
      (∃ u, exec .bitsToBytes t = .next u ∧ u.CompletedOk false) ∧
      (∀ width, ∃ u, exec (.intToBits width) t = .next u ∧ u.CompletedOk false) ∧
      (∀ inv rev, ∃ u, exec (.bitsToInt inv rev) t = .next u ∧ u.CompletedOk false)

/-! ### Invariants and whole-machine rules -/

/-- The state after reset meets the invariant. -/
def Obligations.InvariantHoldsAtReset : Prop := State.reset.Inv

/-- Every step keeps the invariant: STATUS consistent and ERR_CODE at most 6 (10_state R31, R32, R33, R35), OUT_LEN the
bytes of OUT_NBITS and inside the buffer (R41, R50), committed patterns of legal length (R160), both buffers in
canonical form (log 5). -/
def Obligations.StepKeepsInvariant : Prop := ∀ s t : State, s.Inv → step s = .next t → t.Inv

/-- From every state that meets the invariant the step answers a next state, no fault and no refusal: a command in
flight completes (60_exceptions R211, 93_implementation_defined), a host access and a reset take effect. That a block
with BUSY = 0 and nothing to arrive steps to the same state is the model's choice (log 1). -/
def Obligations.NoGoodStateStops : Prop := ∀ s : State, s.Inv → Completes (step s)

/-- A command that stays issued is completed, after as many steps as there are arrivals before the engine's turn at
most (70_reset R241; the finite agenda is the model's, log 1). -/
def Obligations.IssuedCommandIsCompleted : Prop :=
  ∀ s : State, s.Inv → s.busy = true → .reset ∉ s.agenda →
    ∃ k t, k ≤ s.agenda.length + 1 ∧ Sys2Proof.core.run k s = .next t ∧ t.busy = false ∧ t.done = true ∧ t.cmd = s.cmd

/-- R31, last sentence: DONE = 0 with BUSY = 0 holds only before any command has been issued. In such a state CMD is
0 and nothing is reported, at reset and after every step; and no step but a reset leads to such a state from one with
BUSY = 1 or DONE = 1. -/
def Obligations.NothingIsReportedBeforeTheFirstIssue : Prop :=
  State.reset.untouchedBeforeFirstIssue ∧
  (∀ s t : State, s.untouchedBeforeFirstIssue → step s = .next t → t.untouchedBeforeFirstIssue) ∧
  ∀ s t : State, s.busy = true ∨ s.done = true → (∀ rest, s.agenda ≠ .reset :: rest) → step s = .next t →
    t.busy = true ∨ t.done = true

/-- R34: CFG_VALID is set only by a successful CONFIGURE and cleared only by reset, and between the two no step changes
a pattern register. -/
def Obligations.CfgValidLocksThePatternsUntilReset : Prop :=
  ∀ s t : State, step s = .next t →
    (s.cfgValid = false → t.cfgValid = true → s.busy = true ∧ s.cmd = 0x00000001#32 ∧ t.err = false) ∧
    (s.cfgValid = true → (∀ rest, s.agenda ≠ .reset :: rest) →
      t.cfgValid = true ∧ t.onePat = s.onePat ∧ t.oneLen = s.oneLen ∧ t.zeroPat = s.zeroPat ∧ t.zeroLen = s.zeroLen)

/-- Every decode between a configuration commit and the next reset sees the same two patterns (41_linedecoder R160):
along any run with no reset on the agenda. -/
def Obligations.CommittedPatternsAreImmutable : Prop :=
  ∀ (k : Nat) (s t : State), s.cfgValid = true → .reset ∉ s.agenda → Sys2Proof.core.run k s = .next t →
    t.cfgValid = true ∧ t.oneSeq = s.oneSeq ∧ t.zeroSeq = s.zeroSeq

/-- While a command stays in flight nothing of the block's state changes (10_state R53, 20_memory R67): a step can only
answer a host access. -/
def Obligations.NothingChangesWhileACommandStaysInFlight : Prop :=
  ∀ s t : State, step s = .next t → s.busy = true → t.busy = true →
    t = { s with agenda := t.agenda, resp := t.resp, draws := t.draws }

/-- A host access never changes RESULT, the output lengths, a byte of OUT_MEM or CFG_VALID (10_state R22, R50). -/
def Obligations.HostAccessesNeverChangeResults : Prop :=
  ∀ (s : State) (a : Access),
    s.SameOutput (s.hostAccess a) ∧ (s.hostAccess a).result = s.result ∧ (s.hostAccess a).cfgValid = s.cfgValid ∧
    (s.hostAccess a).agenda = s.agenda

/-- The engine never changes CMD, an operand or pattern register or a byte of IN_MEM, and answers no access
(10_state R24, R49, R56). -/
def Obligations.EngineNeverChangesOperands : Prop := ∀ s t : State, engineTurn s = .next t → s.SameOperands t

/-- R200: a completion that raises an error writes STATUS and nothing else. -/
def Obligations.ErrorsArePrecise : Prop :=
  ∀ s t : State, s.busy = true → engineTurn s = .next t → t.err = true →
    t = s.failedWith t.errCode ∧ 1 ≤ t.errCode.toNat ∧ t.errCode.toNat ≤ 6

/-- R57: the state each completion writes, row by row; an output is a packed bit sequence with both its lengths. A
failing one, that of an illegal word too, writes STATUS only. -/
def Obligations.StateWrittenByEachCompletion : Prop :=
  (∀ s : State, s.busy = true → (∀ i, decodeCmd s.cmd ≠ .ok i) → engineTurn s = .next (s.failedWith 0x3)) ∧
  ∀ (i : Instr) (s t : State), i.wellFormed = true → exec i s = .next t →
    (t.err = true → t = s.failedWith t.errCode) ∧
    (t.err = false → t.busy = false ∧ t.done = true ∧ t.errCode = 0 ∧ s.SameOperands t ∧
      match i with
      | .bytesToBits | .intToBits _ | .decodeBits =>
        (∃ bits, t.HoldsOutput bits) ∧ t.result = s.result ∧ t.pad = false ∧ t.cfgValid = s.cfgValid
      | .bitsToBytes | .decodeBytes =>
        (∃ bits, t.HoldsOutput bits) ∧ t.result = s.result ∧
          (t.pad = true ↔ t.outNbits.toNat % 8 ≠ 0) ∧ t.cfgValid = s.cfgValid
      | .bitsToInt _ _ => s.SameOutput t ∧ t.pad = false ∧ t.cfgValid = s.cfgValid
      | .configure => s.SameOutput t ∧ t.result = s.result ∧ t.pad = false ∧ t.cfgValid = true)

/-- R208: a command reports exactly one error, the first that applies, and none where none applies. -/
def Obligations.FirstErrorIsReported : Prop :=
  ∀ s : State, s.busy = true → s.configConsistent →
    ((∀ i, decodeCmd s.cmd ≠ .ok i) → engineTurn s = .next (s.failedWith 0x3)) ∧
    ∀ i, decodeCmd s.cmd = .ok i →
      (∀ code, s.firstError i = some code → engineTurn s = .next (s.failedWith code)) ∧
      (s.firstError i = none → ∃ t, engineTurn s = .next t ∧ t.err = false ∧ t.errCode = 0)

/-- R55: what a command reports and writes is a function of the command, the operand registers, IN_MEM and the
patterns with their commit alone: two states that agree on those agree after it. -/
def Obligations.CommandsAreSelfContained : Prop :=
  ∀ (i : Instr) (s s' t t' : State), s.SameOperands { s' with agenda := s.agenda, resp := s.resp } →
    s'.cfgValid = s.cfgValid → exec i s = .next t → exec i s' = .next t' →
    t'.statusWord = t.statusWord ∧
    (t.err = false → match i with
      | .bytesToBits | .intToBits _ | .decodeBits | .bitsToBytes | .decodeBytes =>
        t'.outLen = t.outLen ∧ t'.outNbits = t.outNbits ∧
          ∀ j, j < t.outLen.toNat → t'.outMem.read j = t.outMem.read j
      | .bitsToInt _ _ => t'.result = t.result
      | .configure => True)

/-- R192: two DECODE_BYTES with the same IN_LEN, the same IN_LEN bytes and the same configuration give the same output
length, bit count, padding notice and bytes. -/
def Obligations.DecodeBytesDependsOnItsInputAlone : Prop :=
  ∀ s s' : State, s.cfgValid = true → s'.cfgValid = true → s.configConsistent → s'.configConsistent →
    s.inLen.toNat ≤ Config.bufBytes → s'.inLen = s.inLen → (∀ j, j < s.inLen.toNat → s'.inMem.read j = s.inMem.read j) →
    s'.oneSeq = s.oneSeq → s'.zeroSeq = s.zeroSeq →
    ∃ t t', exec .decodeBytes s = .next t ∧ exec .decodeBytes s' = .next t' ∧
      t'.outLen = t.outLen ∧ t'.outNbits = t.outNbits ∧ t'.pad = t.pad ∧
      ∀ j, j < t.outLen.toNat → t'.outMem.read j = t.outMem.read j

/-! ### The bus -/

/-- The register map (10_state R22): each register reads as its value at its offset, LEN registers zero-extended
(R44, R46); the three result registers while BUSY = 0. -/
def Obligations.RegistersReadAtTheirOffsets : Prop :=
  ∀ s : State,
    s.hostAccess (.read 0x000#18) = { s with resp := some (.readOk s.cmd) } ∧
    s.hostAccess (.read 0x004#18) = { s with resp := some (.readOk s.statusWord) } ∧
    s.hostAccess (.read 0x008#18) = { s with resp := some (.readOk s.inLen) } ∧
    s.hostAccess (.read 0x00C#18) = { s with resp := some (.readOk s.inNbits) } ∧
    s.hostAccess (.read 0x010#18) = { s with resp := some (.readOk s.argValue) } ∧
    (s.busy = false →
      s.hostAccess (.read 0x014#18) = { s with resp := some (.readOk s.result) } ∧
      s.hostAccess (.read 0x018#18) = { s with resp := some (.readOk s.outLen) } ∧
      s.hostAccess (.read 0x01C#18) = { s with resp := some (.readOk s.outNbits) }) ∧
    s.hostAccess (.read 0x020#18) = { s with resp := some (.readOk s.onePat) } ∧
    s.hostAccess (.read 0x024#18) = { s with resp := some (.readOk (BitVec.ofNat 32 s.oneLen.toNat)) } ∧
    s.hostAccess (.read 0x028#18) = { s with resp := some (.readOk s.zeroPat) } ∧
    s.hostAccess (.read 0x02C#18) = { s with resp := some (.readOk (BitVec.ofNat 32 s.zeroLen.toNat)) } ∧
    s.hostAccess (.read 0x030#18) = { s with resp := some (.readOk (BitVec.ofNat 32 Config.bufBytes)) } ∧
    s.hostAccess (.read 0x034#18) = { s with resp := some (.readOk 0x00000020#32) }

/-- RW registers take any value (10_state R37, R38, R39), RW-L registers before the configuration commit (R43, R45), of
a LEN register's word only bits [5:0] (R44, R46); nothing else changes. The write is of a whole word, its strobes all
set or the bus without any (20_memory R64, U10). -/
def Obligations.RegisterWritesStoreTheirSignificantBits : Prop :=
  ∀ (s : State) (w : Word) (strobes : Option (BitVec 4)), strobes = none ∨ strobes = some 0xF#4 → s.busy = false →
    s.hostAccess (.write 0x008#18 w strobes) = { s with inLen := w, resp := some .writeOk } ∧
    s.hostAccess (.write 0x00C#18 w strobes) = { s with inNbits := w, resp := some .writeOk } ∧
    s.hostAccess (.write 0x010#18 w strobes) = { s with argValue := w, resp := some .writeOk } ∧
    (s.cfgValid = false →
      s.hostAccess (.write 0x020#18 w strobes) = { s with onePat := w, resp := some .writeOk } ∧
      s.hostAccess (.write 0x024#18 w strobes) =
        { s with oneLen := BitVec.ofNat 6 (w.toNat % 64), resp := some .writeOk } ∧
      s.hostAccess (.write 0x028#18 w strobes) = { s with zeroPat := w, resp := some .writeOk } ∧
      s.hostAccess (.write 0x02C#18 w strobes) =
        { s with zeroLen := BitVec.ofNat 6 (w.toNat % 64), resp := some .writeOk })

/-- R206, with R66: exactly these accesses get a bus error, which changes no state of the block, and a read gets data 0
with it. An access that carries no strobes is a whole word (log 11). -/
def Obligations.BusErrorsAreExactlyTheRefusedAccesses : Prop :=
  ∀ (s : State) (offset : BitVec 18),
    ((∃ d, (s.hostAccess (.read offset)).resp = some (.readError d)) ↔
      offset.toNat % 4 ≠ 0 ∨ unmappedOffset offset.toNat) ∧
    (∀ d, (s.hostAccess (.read offset)).resp = some (.readError d) →
      d = 0 ∧ s.hostAccess (.read offset) = { s with resp := some (.readError 0) }) ∧
    ∀ (w : Word) (strobes : Option (BitVec 4)),
      ((s.hostAccess (.write offset w strobes)).resp = some .writeError ↔
        offset.toNat % 4 ≠ 0 ∨ (∃ b, strobes = some b ∧ b ≠ 0xF#4) ∨ unmappedOffset offset.toNat ∨
        offset.toNat ∈ [0x004, 0x014, 0x018, 0x01C, 0x030, 0x034] ∨
        (0x20000 ≤ offset.toNat ∧ offset.toNat < 0x20000 + Config.bufBytes) ∨
        (s.cfgValid = true ∧ offset.toNat ∈ [0x020, 0x024, 0x028, 0x02C]) ∨ s.busy = true) ∧
      ((s.hostAccess (.write offset w strobes)).resp = some .writeError →
        s.hostAccess (.write offset w strobes) = { s with resp := some .writeError })

/-- R67: while BUSY = 1 every write in the window is refused and changes nothing. -/
def Obligations.WritesWhileBusyAreRefused : Prop :=
  ∀ (s : State) (offset : BitVec 18) (w : Word) (strobes : Option (BitVec 4)), s.busy = true →
    s.hostAccess (.write offset w strobes) = { s with resp := some .writeError }

/-- R68: while BUSY = 1 a read of RESULT, OUT_LEN, OUT_NBITS or a word of OUT_MEM is answered ok with some word (the
model's free draw, log 7), and a read of any other register or of a word of IN_MEM with its current value. -/
def Obligations.ReadsWhileBusy : Prop :=
  ∀ s : State, s.busy = true →
    (∀ offset : BitVec 18,
      offset.toNat ∈ [0x014, 0x018, 0x01C] ∨
        (offset.toNat % 4 = 0 ∧ 0x20000 ≤ offset.toNat ∧ offset.toNat < 0x20000 + Config.bufBytes) →
      ∃ d, s.hostAccess (.read offset) = { s with resp := some (.readOk d), draws := s.draws + 1 }) ∧
    (∀ r : Reg, r ∉ [Reg.result, Reg.outLen, Reg.outNbits] →
      s.hostAccess (.read (BitVec.ofNat 18 r.offset)) = { s with resp := some (.readOk (s.readReg r)) }) ∧
    (∀ j, 4 * j < Config.bufBytes →
      s.hostAccess (.read (BitVec.ofNat 18 (0x10000 + 4 * j))) =
        { s with resp := some (.readOk (s.inMem.readWord (4 * j))) })

/-- R69: the word over bytes 4j to 4j+3 of a buffer is big-endian, read and written, and its bit 31 - t is element
32j + t of the packed bit sequence. The write is of a whole word, its strobes all set or the bus without any. -/
def Obligations.BufferWordsAreBigEndian : Prop :=
  ∀ (s : State) (j : Nat), 4 * j < Config.bufBytes →
    (∃ w : Word, s.hostAccess (.read (BitVec.ofNat 18 (0x10000 + 4 * j))) = { s with resp := some (.readOk w) } ∧
      w.extractLsb' 24 8 = s.inMem.read (4 * j) ∧ w.extractLsb' 16 8 = s.inMem.read (4 * j + 1) ∧
      w.extractLsb' 8 8 = s.inMem.read (4 * j + 2) ∧ w.extractLsb' 0 8 = s.inMem.read (4 * j + 3) ∧
      ∀ t, t < 32 → w.getLsbD (31 - t) = s.inMem.bitAt (32 * j + t)) ∧
    (s.busy = false →
      ∃ w : Word, s.hostAccess (.read (BitVec.ofNat 18 (0x20000 + 4 * j))) = { s with resp := some (.readOk w) } ∧
        w.extractLsb' 24 8 = s.outMem.read (4 * j) ∧ w.extractLsb' 16 8 = s.outMem.read (4 * j + 1) ∧
        w.extractLsb' 8 8 = s.outMem.read (4 * j + 2) ∧ w.extractLsb' 0 8 = s.outMem.read (4 * j + 3)) ∧
    (s.busy = false → ∀ (w : Word) (strobes : Option (BitVec 4)), strobes = none ∨ strobes = some 0xF#4 →
      ∃ m : Memory, s.hostAccess (.write (BitVec.ofNat 18 (0x10000 + 4 * j)) w strobes) =
          { s with inMem := m, resp := some .writeOk } ∧
        m.read (4 * j) = w.extractLsb' 24 8 ∧ m.read (4 * j + 1) = w.extractLsb' 16 8 ∧
        m.read (4 * j + 2) = w.extractLsb' 8 8 ∧ m.read (4 * j + 3) = w.extractLsb' 0 8 ∧
        ∀ i, i < 4 * j ∨ 4 * j + 3 < i → m.read i = s.inMem.read i)

/-- R73: a read changes nothing of the block's state; a write repeated changes nothing more, but for a write of CMD,
which issues one command and is refused when repeated before the completion. -/
def Obligations.AccessesAreIdempotentButForCmd : Prop :=
  ∀ (s : State) (offset : BitVec 18),
    (∃ r n, s.hostAccess (.read offset) = { s with resp := some r, draws := n }) ∧
    ∀ (w : Word) (strobes : Option (BitVec 4)),
      (offset ≠ 0x000#18 →
        (s.hostAccess (.write offset w strobes)).hostAccess (.write offset w strobes) =
          s.hostAccess (.write offset w strobes)) ∧
      (s.busy = false → strobes = none ∨ strobes = some 0xF#4 →
        (s.hostAccess (.write 0x000#18 w strobes)).busy = true ∧
        ((s.hostAccess (.write 0x000#18 w strobes)).hostAccess (.write 0x000#18 w strobes)).resp =
          some .writeError)

/-- R65: a host write to OUT_MEM is refused and changes nothing, at any offset of OUT_MEM; a read of it, by word, is
not. -/
def Obligations.OutMemIsReadOnlyToTheHost : Prop :=
  ∀ (s : State) (offset : BitVec 18) (w : Word) (strobes : Option (BitVec 4)),
    0x20000 ≤ offset.toNat → offset.toNat < 0x20000 + Config.bufBytes →
    s.hostAccess (.write offset w strobes) = { s with resp := some .writeError } ∧
    (s.busy = false → offset.toNat % 4 = 0 →
      s.hostAccess (.read offset) = { s with resp := some (.readOk (s.outMem.readWord (offset.toNat - 0x20000))) })

/-- R36: the reserved bits of STATUS read 0, and a write of STATUS is refused. -/
def Obligations.StatusReservedBitsReadZero : Prop :=
  ∀ s : State, (∀ k, (5 ≤ k ∧ k ≤ 7) ∨ 12 ≤ k → s.statusWord.getLsbD k = false) ∧
    ∀ (w : Word) (strobes : Option (BitVec 4)),
      s.hostAccess (.write 0x004#18 w strobes) = { s with resp := some .writeError }

/-- STATUS as a number (10_state R25). -/
def Obligations.StatusIsTheSumOfItsFields : Prop :=
  ∀ s : State, s.statusWord.toNat = s.busy.toNat + s.done.toNat * 2 + s.err.toNat * 4 + s.pad.toNat * 8 +
    s.cfgValid.toNat * 16 + s.errCode.toNat * 256

/-- The window (20_memory R60, 00_scope R7): 2^18 addresses from BASE, which is aligned to 2^18 (log 4). -/
def Obligations.WindowIsTheAddressesFromBase : Prop :=
  Config.base % 2 ^ 18 = 0 ∧
  ∀ (addr : Nat) (offset : BitVec 18), windowOffset addr = some offset ↔ addr = Config.base + offset.toNat

/-! ### Host programs -/

/-- Every complete run of a host program makes the transactions of one of the program's encodings, with a number of polls
for each WAIT of its own (30_encoding R110, R111; log 15). -/
def Obligations.HostRunsExpandTheProgram : Prop :=
  ∀ (turns : List Turn) (prog : List Stmt) (ops : List HostOp) (s : State), programOps prog = some ops →
    (hostRun turns ops s).left = [] →
    ∃ polls : List Nat, polls.length = prog.length ∧
      programTransactions (prog.zip polls) = some (hostRun turns ops s).trace

/-- A run of a host is the run of the block over the agenda it makes: its accesses and the engine's turns in their order
(20_memory R75; the agenda is the model's, log 1, 15). -/
def Obligations.HostRunsAreAgendas : Prop :=
  ∀ (turns : List Turn) (ops : List HostOp) (s : State) (rest : List Event), s.Inv →
    Sys2Proof.core.run (hostRun turns ops s).events.length (s.withAgenda ((hostRun turns ops s).events ++ rest)) =
      .next ((hostRun turns ops s).state.withAgenda rest)

/-! ### The pure functions -/

/-- R120: element 8i + k of the bits of a byte list is bit 7 - k of byte i, there are 8 for each byte, and a byte's are
`intToBits(byte, 8)`. -/
def Obligations.BytesToBitsByPosition : Prop :=
  ∀ bs : List Byte, (bytesToBits bs).length = 8 * bs.length ∧
    (∀ (i : Nat) (h : i < bs.length) (k : Nat), k < 8 → (bytesToBits bs)[8 * i + k]? = some (bs[i].getLsbD (7 - k))) ∧
    ∀ b : Byte, intToBits b.toNat 8 = .ok (bytesToBits [b])

/-- R122, R123: `intToBits` fails exactly when the value is 2^width or more, and otherwise gives exactly `width` bits,
element k the bit width-1-k; at every width, 0 included. -/
def Obligations.IntToBitsFitsOrFails : Prop :=
  ∀ v w : Nat, (2 ^ w ≤ v → ∃ e, intToBits v w = .error e) ∧
    (v < 2 ^ w → ∃ s, intToBits v w = .ok s ∧ s.length = w ∧
      ∀ k, k < w → s[k]? = some (decide (v / 2 ^ (w - 1 - k) % 2 = 1))) ∧
    intToBits 0 0 = .ok [] ∧ (1 ≤ v → ∃ e, intToBits v 0 = .error e)

/-- R124: invert, then reverse, then the MSB-first sum; the value is below 2^n, and 0 for no bits. -/
def Obligations.BitsToIntIsTheWeightedSum : Prop :=
  ∀ (s : BitSeq) (inv rev : Bool),
    bitsToInt s inv rev = ∑ k ∈ Finset.range s.length,
      (xor inv (s.getD (if rev then s.length - 1 - k else k) false)).toNat * 2 ^ (s.length - 1 - k) ∧
    bitsToInt s inv rev < 2 ^ s.length ∧ bitsToInt [] inv rev = 0

/-- R125: inversion and reversal commute, and their closed forms. -/
def Obligations.InversionAndReversalInClosedForm : Prop :=
  ∀ s : BitSeq,
    bitsToInt s true false = (2 ^ s.length - 1) - bitsToInt s false false ∧
    bitsToInt s false true = (BitVec.ofNat s.length (bitsToInt s false false)).reverse.toNat ∧
    bitsToInt s true true =
      (2 ^ s.length - 1) - (BitVec.ofNat s.length (bitsToInt s false false)).reverse.toNat ∧
    bitsToInt s true true = bitsToInt (s.reverse.map (fun b => !b)) false false

/-- R130: byte j of the packed bits holds elements 8j to 8j+7 from its most significant bit down, zeros where the
sequence has ended, and there are ceil8 bytes. -/
def Obligations.BitsToBytesByPosition : Prop :=
  ∀ s : BitSeq, (bitsToBytes s).length = (s.length + 7) / 8 ∧
    ∀ (j : Nat) (h : j < (bitsToBytes s).length) (k : Nat), k < 8 →
      ((bitsToBytes s)[j]).getLsbD (7 - k) = s.getD (8 * j + k) false

/-- R132: the round trip of any byte list. -/
def Obligations.BytesRoundTripThroughBits : Prop := ∀ bs : List Byte, bitsToBytes (bytesToBits bs) = bs

/-- R133: the four laws. -/
def Obligations.CodecLaws : Prop :=
  (∀ (v w : Nat) (s : BitSeq), intToBits v w = .ok s → bitsToInt s false false = v) ∧
  (∀ s : BitSeq, s.length % 8 = 0 → bytesToBits (bitsToBytes s) = s) ∧
  (∀ s : BitSeq, bytesToBits (bitsToBytes s) = s ++ List.replicate (8 * ((s.length + 7) / 8) - s.length) false) ∧
  (∀ b : Byte, bitsToInt (byteBits b) false false = b.toNat)

/-- R62: element k of a packed sequence is bit 7 - k mod 8 of byte k div 8, nothing past the length is read, and whole
bytes read as their bits. -/
def Obligations.PackedSequencesAreMsbFirst : Prop :=
  ∀ (m : Memory) (n : Nat),
    (m.readBits n).length = n ∧
    (∀ k, k < n → (m.readBits n)[k]? = some ((m.read (k / 8)).getLsbD (7 - k % 8))) ∧
    (∀ m' : Memory, (∀ k, k < n → m'.bitAt k = m.bitAt k) → m'.readBits n = m.readBits n) ∧
    m.readBits (8 * n) = bytesToBits (m.readBytes n)

/-- R99: a pattern is the low `len` bits of its register, first element most significant; bits above are ignored, and
CONFIGURE refuses every length outside 1 to 32. -/
def Obligations.PatternsAreTheLowBitsOfTheirRegister : Prop :=
  (∀ s : State, s.cfgValid = false →
    s.oneLen.toNat < 1 ∨ 32 < s.oneLen.toNat ∨ s.zeroLen.toNat < 1 ∨ 32 < s.zeroLen.toNat →
    exec .configure s = .next (s.failedWith 0x1)) ∧
  ∀ (pat : Word) (len : BitVec 6), 1 ≤ len.toNat → len.toNat ≤ 32 →
    intToBits (pat.toNat % 2 ^ len.toNat) len.toNat = .ok (patBits pat len) ∧
    (patBits pat len).length = len.toNat ∧
    ∀ k, k < len.toNat → (patBits pat len)[k]? = some (pat.getLsbD (len.toNat - 1 - k))

/-- R170: what the loop does at a position: `one` is tried first, then `zero`, each in full; with neither, it stops. -/
def Obligations.LineDecodeIsTheGreedyScan : Prop :=
  ∀ one zero : BitSeq, one ≠ [] → zero ≠ [] → ∀ s : BitSeq,
    lineDecode s one zero =
      if one.isPrefixOf s then true :: lineDecode (s.drop one.length) one zero
      else if zero.isPrefixOf s then false :: lineDecode (s.drop zero.length) one zero
      else []

/-- R171: where both patterns match, 1 is emitted and the cursor advances by |one|; with equal patterns only 1s are. -/
def Obligations.OneWinsEveryTie : Prop :=
  ∀ one zero : BitSeq, one ≠ [] → zero ≠ [] → ∀ s : BitSeq,
    (one.isPrefixOf s = true → zero.isPrefixOf s = true →
      lineDecode s one zero = true :: lineDecode (s.drop one.length) one zero) ∧
    (one = zero → ∀ b ∈ lineDecode s one zero, b = true)

/-- R172: the decoded sequence is no longer than |s| div the shorter pattern, and needs no more bytes than the input. -/
def Obligations.LineDecodeLengthBound : Prop :=
  ∀ one zero s : BitSeq, one ≠ [] → zero ≠ [] →
    (lineDecode s one zero).length ≤ s.length / min one.length zero.length ∧
    s.length / min one.length zero.length ≤ s.length ∧
    ((lineDecode s one zero).length + 7) / 8 ≤ (s.length + 7) / 8

/-- R177: the output is a parse of a prefix of the input, at whose end neither pattern matches; the output of a longer
input need not continue it. -/
def Obligations.LineDecodeParsesAPrefix : Prop :=
  (∀ one zero s : BitSeq, one ≠ [] → zero ≠ [] →
    let sym : Bool → BitSeq := fun b => if b then one else zero
    let d := lineDecode s one zero
    let c := (d.map (fun b => (sym b).length)).sum
    c ≤ s.length ∧ s.take c = d.flatMap sym ∧ matchAt s c one = false ∧ matchAt s c zero = false) ∧
  ∃ one zero s t : BitSeq, one ≠ [] ∧ zero ≠ [] ∧
    ¬ (lineDecode s one zero).isPrefixOf (lineDecode (s ++ t) one zero) = true

/-! ### The commands -/

/-- CONFIGURE (R161). -/
def Obligations.ConfigureCommitsLegalPatterns : Prop :=
  ∀ s : State,
    (∀ w : Word, decodeCmd w = .ok .configure ↔ w = 0x00000001#32) ∧
    (s.cfgValid = true → exec .configure s = .next (s.failedWith 0x6)) ∧
    (s.cfgValid = false →
      ¬((1 ≤ s.oneLen.toNat ∧ s.oneLen.toNat ≤ 32) ∧ 1 ≤ s.zeroLen.toNat ∧ s.zeroLen.toNat ≤ 32) →
      exec .configure s = .next (s.failedWith 0x1)) ∧
    (s.cfgValid = false → 1 ≤ s.oneLen.toNat → s.oneLen.toNat ≤ 32 → 1 ≤ s.zeroLen.toNat → s.zeroLen.toNat ≤ 32 →
      exec .configure s = .next { s.succeededSilently with cfgValid := true })

/-- DECODE_BITS (R180); that committed patterns have legal lengths is part of the invariant every step keeps (R160). -/
def Obligations.DecodeBitsStoresTheDecodedBits : Prop :=
  ∀ s : State,
    (∀ w : Word, decodeCmd w = .ok .decodeBits ↔ w = 0x00000003#32) ∧
    (s.cfgValid = false → exec .decodeBits s = .next (s.failedWith 0x5)) ∧
    (s.cfgValid = true → 8 * Config.bufBytes < s.inNbits.toNat → exec .decodeBits s = .next (s.failedWith 0x4)) ∧
    (s.cfgValid = true → s.patternsLegal = true → s.inNbits.toNat ≤ 8 * Config.bufBytes →
      ∃ t, exec .decodeBits s = .next t ∧ t.CompletedOk false ∧ s.WroteOutputOnly t ∧
        t.HoldsOutput (lineDecode (s.inMem.readBits s.inNbits.toNat) s.oneSeq s.zeroSeq))

/-- DECODE_BYTES (R191); that committed patterns have legal lengths is part of the invariant every step keeps (R160). -/
def Obligations.DecodeBytesStoresTheDecodedPayload : Prop :=
  ∀ s : State,
    (∀ w : Word, decodeCmd w = .ok .decodeBytes ↔ w = 0x00000002#32) ∧
    (s.cfgValid = false → exec .decodeBytes s = .next (s.failedWith 0x5)) ∧
    (s.cfgValid = true → Config.bufBytes < s.inLen.toNat → exec .decodeBytes s = .next (s.failedWith 0x4)) ∧
    (s.cfgValid = true → s.patternsLegal = true → s.inLen.toNat ≤ Config.bufBytes →
      ∃ t, exec .decodeBytes s = .next t ∧ s.WroteOutputOnly t ∧
        t.CompletedOk
          (decide ((lineDecode (bytesToBits (s.inMem.readBytes s.inLen.toNat)) s.oneSeq s.zeroSeq).length % 8 ≠ 0)) ∧
        t.HoldsOutput (lineDecode (bytesToBits (s.inMem.readBytes s.inLen.toNat)) s.oneSeq s.zeroSeq) ∧
        t.outMem.readBytes t.outLen.toNat = pipelineDecode (s.inMem.readBytes s.inLen.toNat) s.oneSeq s.zeroSeq)

/-- A decode over committed patterns of illegal length, which no state that meets the invariant has, stops with the fault
of that name: the model's choice (log 9), since 30_encoding R99 defines no pattern there. -/
def Obligations.DecodesOverIllegalPatternsFault : Prop :=
  ∀ s : State, s.cfgValid = true →
    ¬((1 ≤ s.oneLen.toNat ∧ s.oneLen.toNat ≤ 32) ∧ 1 ≤ s.zeroLen.toNat ∧ s.zeroLen.toNat ≤ 32) →
    ¬s.Inv ∧
    (s.inNbits.toNat ≤ 8 * Config.bufBytes → exec .decodeBits s = .fault .illegalPatternLength) ∧
    (s.inLen.toNat ≤ Config.bufBytes → exec .decodeBytes s = .fault .illegalPatternLength)

/-- BYTES_TO_BITS (R140). -/
def Obligations.BytesToBitsStoresTheInputBytes : Prop :=
  ∀ s : State,
    (∀ w : Word, decodeCmd w = .ok .bytesToBits ↔ w = 0x00000004#32) ∧
    (Config.bufBytes < s.inLen.toNat → exec .bytesToBits s = .next (s.failedWith 0x4)) ∧
    (s.inLen.toNat ≤ Config.bufBytes →
      ∃ t, exec .bytesToBits s = .next t ∧ t.CompletedOk false ∧ s.WroteOutputOnly t ∧
        t.HoldsOutput (bytesToBits (s.inMem.readBytes s.inLen.toNat)) ∧
        t.outLen = s.inLen ∧ t.outNbits.toNat = 8 * s.inLen.toNat ∧
        ∀ j, j < s.inLen.toNat → t.outMem.read j = s.inMem.read j)

/-- BITS_TO_BYTES (R141). -/
def Obligations.BitsToBytesPacksTheInputBits : Prop :=
  ∀ s : State,
    (∀ w : Word, decodeCmd w = .ok .bitsToBytes ↔ w = 0x00000005#32) ∧
    (8 * Config.bufBytes < s.inNbits.toNat → exec .bitsToBytes s = .next (s.failedWith 0x4)) ∧
    (s.inNbits.toNat ≤ 8 * Config.bufBytes →
      ∃ t, exec .bitsToBytes s = .next t ∧ t.CompletedOk (decide (s.inNbits.toNat % 8 ≠ 0)) ∧ s.WroteOutputOnly t ∧
        t.HoldsOutput (s.inMem.readBits s.inNbits.toNat) ∧ t.outNbits = s.inNbits ∧
        t.outMem.readBytes t.outLen.toNat = bitsToBytes (s.inMem.readBits s.inNbits.toNat))

/-- INT_TO_BITS w (R142). -/
def Obligations.IntToBitsStoresTheFixedWidthForm : Prop :=
  ∀ (s : State) (width : Nat), width ≤ 63 →
    (∀ w : Word, decodeCmd w = .ok (.intToBits width) ↔ w = 0x00000006#32 ||| (BitVec.ofNat 32 width <<< 8)) ∧
    (2 ^ width ≤ s.argValue.toNat → exec (.intToBits width) s = .next (s.failedWith 0x2)) ∧
    (32 ≤ width → s.argValue.toNat < 2 ^ width) ∧
    (s.argValue.toNat < 2 ^ width →
      ∃ t, exec (.intToBits width) s = .next t ∧ t.CompletedOk false ∧ s.WroteOutputOnly t ∧
        t.outNbits.toNat = width ∧ t.outLen.toNat = (width + 7) / 8 ∧ t.outLen.toNat ≤ Config.bufBytes ∧
        (∀ k, k < width → t.outMem.bitAt k = decide (s.argValue.toNat / 2 ^ (width - 1 - k) % 2 = 1)) ∧
        (∀ k, width ≤ k → k < 8 * t.outLen.toNat → t.outMem.bitAt k = false))

/-- BITS_TO_INT inv, rev (R143). -/
def Obligations.BitsToIntWritesResultOnly : Prop :=
  ∀ (s : State) (inv rev : Bool),
    (∀ w : Word, decodeCmd w = .ok (.bitsToInt inv rev) ↔
      w = 0x00000007#32 ||| (BitVec.ofNat 32 inv.toNat <<< 4) ||| (BitVec.ofNat 32 rev.toNat <<< 5)) ∧
    (32 < s.inNbits.toNat → exec (.bitsToInt inv rev) s = .next (s.failedWith 0x4)) ∧
    (s.inNbits.toNat ≤ 32 →
      ∃ v : Word, exec (.bitsToInt inv rev) s = .next { s.succeededSilently with result := v } ∧
        v.toNat = bitsToInt (s.inMem.readBits s.inNbits.toNat) inv rev ∧ v.toNat < 2 ^ s.inNbits.toNat)
end

