-- ==== Sys2Proof/Laws/Bits.lean ====
section
/-! SUPPORT. Small laws of the pure functions: lengths, and the equations later proofs rewrite with. -/

namespace Sys2Proof.Machine

/-! ### The checks, as propositions -/

theorem wellFormed_intToBits_iff (width : Nat) : (Instr.intToBits width).wellFormed = true ↔ width ≤ 63 :=
  decide_eq_true_iff

theorem State.inLenInRange_iff (s : State) : s.inLenInRange = true ↔ s.inLen.toNat ≤ Config.bufBytes :=
  decide_eq_true_iff

theorem State.inNbitsInRange_iff (s : State) : s.inNbitsInRange = true ↔ s.inNbits.toNat ≤ 8 * Config.bufBytes :=
  decide_eq_true_iff

theorem State.inNbitsFitResult_iff (s : State) : s.inNbitsFitResult = true ↔ s.inNbits.toNat ≤ 32 :=
  decide_eq_true_iff

theorem padNotice_iff (n : Nat) : padNotice n = true ↔ n % 8 ≠ 0 := by simp [padNotice]

/-! ### Lengths and equations -/

@[simp] theorem byteBits_length (b : Byte) : (byteBits b).length = 8 := rfl

@[simp] theorem bytesToBits_nil : bytesToBits [] = [] := rfl

@[simp] theorem bytesToBits_cons (b : Byte) (bs : List Byte) : bytesToBits (b :: bs) = byteBits b ++ bytesToBits bs := rfl

@[simp] theorem bytesToBits_length (bs : List Byte) : (bytesToBits bs).length = 8 * bs.length := by
  induction bs with
  | nil => rfl
  | cons b bs ih => simp [ih]; omega

@[simp] theorem bitsToBytes_length (s : BitSeq) : (bitsToBytes s).length = ceil8 s.length := by simp [bitsToBytes]

theorem padRight_length (s : BitSeq) : (padRight s).length = 8 * ceil8 s.length := by
  simp only [padRight, List.length_append, List.length_replicate, ceil8]
  omega

@[simp] theorem msbValue_nil : msbValue [] = 0 := rfl

@[simp] theorem msbValue_cons (b : Bool) (s : BitSeq) : msbValue (b :: s) = b.toNat * 2 ^ s.length + msbValue s := rfl

theorem msbValue_lt (s : BitSeq) : msbValue s < 2 ^ s.length := by
  induction s with
  | nil => simp
  | cons b s ih =>
    have : b.toNat ≤ 1 := Bool.toNat_le b
    simp only [msbValue_cons, List.length_cons, pow_succ]
    nlinarith

theorem msbValue_append (s t : BitSeq) : msbValue (s ++ t) = msbValue s * 2 ^ t.length + msbValue t := by
  induction s with
  | nil => simp
  | cons b s ih => simp only [List.cons_append, msbValue_cons, ih, List.length_append, pow_add]; ring

theorem intToBits_ok {v w : Nat} {s : BitSeq} (h : intToBits v w = .ok s) :
    v < 2 ^ w ∧ s = (List.range w).map (msbBit v w) := by
  unfold intToBits at h
  split at h
  · cases h
  · exact ⟨by omega, by simpa using h.symm⟩

theorem intToBits_of_lt {v w : Nat} (h : v < 2 ^ w) : intToBits v w = .ok ((List.range w).map (msbBit v w)) := by
  simp [intToBits, show ¬2 ^ w ≤ v by omega]

theorem intToBits_of_le {v w : Nat} (h : 2 ^ w ≤ v) : intToBits v w = .error .valueTooWide := by
  simp [intToBits, h]

@[simp] theorem patBits_length (pat : Word) (len : BitVec 6) : (patBits pat len).length = len.toNat := by simp [patBits]

@[simp] theorem State.oneSeq_length (s : State) : s.oneSeq.length = s.oneLen.toNat := patBits_length _ _

@[simp] theorem State.zeroSeq_length (s : State) : s.zeroSeq.length = s.zeroLen.toNat := patBits_length _ _

theorem legalPatLen_iff (len : BitVec 6) : legalPatLen len = true ↔ 1 ≤ len.toNat ∧ len.toNat ≤ 32 :=
  decide_eq_true_iff

theorem State.patternsLegal_iff (s : State) :
    s.patternsLegal = true ↔ (1 ≤ s.oneLen.toNat ∧ s.oneLen.toNat ≤ 32) ∧ 1 ≤ s.zeroLen.toNat ∧ s.zeroLen.toNat ≤ 32 := by
  simp [State.patternsLegal, legalPatLen_iff]

@[simp] theorem Memory.readBytes_length (m : Memory) (n : Nat) : (m.readBytes n).length = n := by simp [Memory.readBytes]

@[simp] theorem Memory.readBits_length (m : Memory) (n : Nat) : (m.readBits n).length = n := by simp [Memory.readBits]

@[simp] theorem State.inputBytes_length (s : State) : s.inputBytes.length = s.inLen.toNat := Memory.readBytes_length _ _

@[simp] theorem State.inputBits_length (s : State) : s.inputBits.length = s.inNbits.toNat := Memory.readBits_length _ _

/-- What a full match says (41_linedecoder R170). -/
theorem matchAt_iff (s : BitSeq) (c : Nat) (p : BitSeq) :
    matchAt s c p = true ↔ c + p.length ≤ s.length ∧ (s.drop c).take p.length = p := by
  simp [matchAt]

@[simp] theorem lineDecodeFrom_zero (s one zero : BitSeq) (c : Nat) : lineDecodeFrom s one zero 0 c = [] := rfl

theorem lineDecodeFrom_succ (s one zero : BitSeq) (fuel c : Nat) :
    lineDecodeFrom s one zero (fuel + 1) c =
      if matchAt s c one then true :: lineDecodeFrom s one zero fuel (c + one.length)
      else if matchAt s c zero then false :: lineDecodeFrom s one zero fuel (c + zero.length)
      else [] := rfl

/-- With non-empty patterns, fuel beyond the bits that are left changes nothing: the loop has ended before (log 14). -/
theorem lineDecodeFrom_fuel {s one zero : BitSeq} (h1 : one ≠ []) (h0 : zero ≠ []) :
    ∀ {fuel c : Nat}, s.length ≤ c + fuel → lineDecodeFrom s one zero (fuel + 1) c = lineDecodeFrom s one zero fuel c := by
  have l1 : 0 < one.length := List.length_pos_iff.2 h1
  have l0 : 0 < zero.length := List.length_pos_iff.2 h0
  intro fuel
  induction fuel with
  | zero =>
    intro c h
    have n1 : matchAt s c one = false := by
      rw [← Bool.not_eq_true, matchAt_iff]; omega
    have n0 : matchAt s c zero = false := by
      rw [← Bool.not_eq_true, matchAt_iff]; omega
    simp [lineDecodeFrom_succ, n1, n0]
  | succ fuel ih =>
    intro c h
    rw [lineDecodeFrom_succ s one zero (fuel + 1) c, lineDecodeFrom_succ s one zero fuel c, ih (by omega), ih (by omega)]

end Sys2Proof.Machine
end

