-- ==== Sys2Proof/Laws/Memory.lean ====
section
/-! SUPPORT. The laws of the two buffers: reading after writing, and that every operation keeps the canonical form
(`Memory.wf`) and stays inside the buffer (`Memory.within`). -/

namespace Sys2Proof.Machine

/-! ### Cell lists -/

theorem lookupCell_insertCell (cs : List Host.Cell) (i j : Nat) (v : Byte) :
    lookupCell (insertCell cs i v) j = if i = j then some v else lookupCell cs j := by
  induction cs with
  | nil => simp [insertCell, lookupCell]
  | cons c cs ih =>
    obtain ⟨a, b⟩ := c
    unfold insertCell
    split
    · simp [lookupCell]
    · split
      · subst_vars
        by_cases h : a = j <;> simp [lookupCell, h]
      · by_cases h : a = j
        · subst h
          have : i ≠ a := by omega
          simp [lookupCell, this]
        · simp [lookupCell, h, ih]

theorem mem_insertCell {cs : List Host.Cell} {i : Nat} {v : Byte} {c : Host.Cell} (h : c ∈ insertCell cs i v) :
    c = (i, v) ∨ c ∈ cs := by
  induction cs with
  | nil => simpa [insertCell] using h
  | cons d cs ih =>
    obtain ⟨a, b⟩ := d
    unfold insertCell at h
    split at h
    · simpa using h
    · split at h
      · rcases List.mem_cons.1 h with h | h
        · exact .inl h
        · exact .inr (List.mem_cons_of_mem _ h)
      · rcases List.mem_cons.1 h with h | h
        · exact .inr (by simp [h])
        · exact (ih h).imp_right (List.mem_cons_of_mem _)

theorem insertCell_pairwise {cs : List Host.Cell} (h : cs.Pairwise (fun c d => c.1 < d.1)) (i : Nat) (v : Byte) :
    (insertCell cs i v).Pairwise (fun c d => c.1 < d.1) := by
  induction cs with
  | nil => simp [insertCell]
  | cons c cs ih =>
    obtain ⟨a, b⟩ := c
    rw [List.pairwise_cons] at h
    unfold insertCell
    split
    · rename_i hi
      refine List.pairwise_cons.2 ⟨fun d hd => ?_, List.pairwise_cons.2 h⟩
      rcases List.mem_cons.1 hd with rfl | hd
      · exact hi
      · exact hi.trans (h.1 d hd)
    · split
      · rename_i hi
        exact List.pairwise_cons.2 ⟨fun d hd => hi ▸ h.1 d hd, h.2⟩
      · refine List.pairwise_cons.2 ⟨fun d hd => ?_, ih h.2⟩
        rcases mem_insertCell hd with rfl | hd
        · show a < i
          omega
        · exact h.1 d hd

theorem lookupCell_eq_none_of_lt {cs : List Host.Cell} {i : Nat} (h : ∀ c ∈ cs, i < c.1) : lookupCell cs i = none := by
  induction cs with
  | nil => rfl
  | cons c cs ih =>
    obtain ⟨a, b⟩ := c
    have ha : i < a := h (a, b) (by simp)
    simp [lookupCell, show a ≠ i by omega, ih fun d hd => h d (List.mem_cons_of_mem _ hd)]

theorem cells_ext {cs ds : List Host.Cell} (hc : cs.Pairwise (fun c d => c.1 < d.1))
    (hd : ds.Pairwise (fun c d => c.1 < d.1)) (h : ∀ i, lookupCell cs i = lookupCell ds i) : cs = ds := by
  induction cs generalizing ds with
  | nil =>
    cases ds with
    | nil => rfl
    | cons d ds => simpa [lookupCell] using h d.1
  | cons c cs ih =>
    obtain ⟨a, b⟩ := c
    cases ds with
    | nil => simpa [lookupCell] using h a
    | cons d ds =>
      obtain ⟨a', b'⟩ := d
      rw [List.pairwise_cons] at hc hd
      have haa : a = a' := by
        by_contra hne
        rcases Nat.lt_or_gt_of_ne hne with hl | hl
        · have := h a
          rw [lookupCell_eq_none_of_lt (cs := (a', b') :: ds)] at this
          · simp [lookupCell] at this
          · intro e he
            rcases List.mem_cons.1 he with rfl | he
            · exact hl
            · exact hl.trans (hd.1 e he)
        · have := h a'
          rw [lookupCell_eq_none_of_lt (cs := (a, b) :: cs)] at this
          · simp [lookupCell] at this
          · intro e he
            rcases List.mem_cons.1 he with rfl | he
            · exact hl
            · exact hl.trans (hc.1 e he)
      subst haa
      have hb : b = b' := by simpa [lookupCell] using h a
      subst hb
      refine congrArg _ (ih hc.2 hd.2 fun i => ?_)
      by_cases hi : a = i
      · subst hi
        rw [lookupCell_eq_none_of_lt hc.1, lookupCell_eq_none_of_lt hd.1]
      · simpa [lookupCell, hi] using h i

/-! ### `Memory.write` -/

theorem Memory.write_draw (m : Memory) (i : Nat) (v : Byte) : (m.write i v).draw = m.draw := rfl

theorem Memory.read_write_same (m : Memory) (i : Nat) (v : Byte) : (m.write i v).read i = v := by
  simp [Memory.read, Memory.write, lookupCell_insertCell]

theorem Memory.read_write_other (m : Memory) {i j : Nat} (v : Byte) (h : i ≠ j) : (m.write i v).read j = m.read j := by
  simp [Memory.read, Memory.write, lookupCell_insertCell, h]

theorem Memory.read_write (m : Memory) (i j : Nat) (v : Byte) :
    (m.write i v).read j = if i = j then v else m.read j := by
  split
  · subst_vars; exact m.read_write_same _ _
  · exact m.read_write_other _ ‹_›

theorem Memory.write_wf {m : Memory} (h : m.wf) (i : Nat) (v : Byte) : (m.write i v).wf :=
  insertCell_pairwise h i v

theorem Memory.write_within {m : Memory} {cap : Nat} (h : m.within cap) {i : Nat} (hi : i < cap) (v : Byte) :
    (m.write i v).within cap := fun c hc => by
  rcases mem_insertCell hc with rfl | hc
  · exact hi
  · exact h c hc

/-- Two buffers in canonical form, of one draw, with the same written bytes are the same data. -/
theorem Memory.ext_of_lookup {m n : Memory} (hm : m.wf) (hn : n.wf) (hd : m.draw = n.draw)
    (h : ∀ i, lookupCell m.cells i = lookupCell n.cells i) : m = n := by
  cases m; cases n
  simp only [Memory.mk.injEq] at *
  exact ⟨hd, cells_ext hm hn h⟩

/-! ### `Memory.writeWord` -/

/-- Everything a word write does to the bytes (20_memory R69). -/
theorem Memory.read_writeWord (m : Memory) (i j : Nat) (w : Word) :
    (m.writeWord i w).read j =
      if j = i then w.extractLsb' 24 8
      else if j = i + 1 then w.extractLsb' 16 8
      else if j = i + 2 then w.extractLsb' 8 8
      else if j = i + 3 then w.extractLsb' 0 8
      else m.read j := by
  simp only [Memory.writeWord, Memory.read_write]
  split_ifs <;> first | rfl | omega

theorem Memory.writeWord_wf {m : Memory} (h : m.wf) (i : Nat) (w : Word) : (m.writeWord i w).wf :=
  Memory.write_wf (Memory.write_wf (Memory.write_wf (Memory.write_wf h _ _) _ _) _ _) _ _

theorem Memory.writeWord_within {m : Memory} {cap : Nat} (h : m.within cap) {i : Nat} (hi : i + 3 < cap) (w : Word) :
    (m.writeWord i w).within cap :=
  Memory.write_within (Memory.write_within (Memory.write_within (Memory.write_within h (by omega) _) (by omega) _)
    (by omega) _) hi _

/-! ### `Memory.holding` -/

theorem lookupCell_cellsFrom (bs : List Byte) (n i : Nat) :
    lookupCell (cellsFrom n bs) i = if n ≤ i then bs[i - n]? else none := by
  induction bs generalizing n with
  | nil => simp [cellsFrom, lookupCell]
  | cons b bs ih =>
    simp only [cellsFrom, lookupCell, ih]
    by_cases h : n = i
    · simp [h]
    · by_cases hl : n + 1 ≤ i
      · have : i - n = (i - (n + 1)) + 1 := by omega
        simp [h, hl, show n ≤ i by omega, this]
      · simp [h, hl, show ¬n ≤ i by omega]

theorem cellsFrom_bounds {bs : List Byte} {n : Nat} {c : Host.Cell} (h : c ∈ cellsFrom n bs) :
    n ≤ c.1 ∧ c.1 < n + bs.length := by
  induction bs generalizing n with
  | nil => simp [cellsFrom] at h
  | cons b bs ih =>
    simp only [cellsFrom, List.mem_cons] at h
    rcases h with rfl | h
    · simp
    · have := ih h
      simp only [List.length_cons]
      omega

theorem cellsFrom_pairwise (bs : List Byte) (n : Nat) : (cellsFrom n bs).Pairwise (fun c d => c.1 < d.1) := by
  induction bs generalizing n with
  | nil => exact .nil
  | cons b bs ih => exact List.pairwise_cons.2 ⟨fun c hc => by have := (cellsFrom_bounds hc).1; show n < c.1; omega, ih _⟩

/-- Inside the output a held buffer reads as the output (20_memory R63). -/
theorem Memory.read_holding {bs : List Byte} {i : Nat} (h : i < bs.length) (draw : Nat) :
    (Memory.holding draw bs).read i = bs[i] := by
  simp [Memory.read, Memory.holding, lookupCell_cellsFrom, h]

/-- Past the output every byte is the free byte of the new draw (20_memory R63, U3). -/
theorem Memory.read_holding_past {bs : List Byte} {i : Nat} (h : bs.length ≤ i) (draw : Nat) :
    (Memory.holding draw bs).read i = Config.freeByte draw i := by
  simp [Memory.read, Memory.holding, lookupCell_cellsFrom, h]

theorem Memory.holding_wf (draw : Nat) (bs : List Byte) : (Memory.holding draw bs).wf := cellsFrom_pairwise bs 0

theorem Memory.holding_within {bs : List Byte} {cap : Nat} (h : bs.length ≤ cap) (draw : Nat) :
    (Memory.holding draw bs).within cap := fun c hc => by
  have := (cellsFrom_bounds hc).2
  omega

/-! ### An unwritten buffer -/

theorem Memory.empty_wf (draw : Nat) : (Memory.mk draw []).wf := .nil

theorem Memory.empty_within (draw cap : Nat) : (Memory.mk draw []).within cap := fun _ h => by simp at h

/-! ### The capacity -/

/-- What the spec fixes of `BUF_BYTES` (00_scope R7, U6). -/
theorem bufBytes_legal : 8 ≤ Config.bufBytes ∧ Config.bufBytes ≤ 65536 ∧ Config.bufBytes % 4 = 0 := by
  have := Config.bufSelect.isLt
  unfold Config.bufBytes
  omega

end Sys2Proof.Machine
end

