-- ==== Sys2Proof/Laws/State.lean ====
section
/-! SUPPORT. The state record: what each named update does to each field, one lemma per field, so that no later proof
unfolds a record update. -/

namespace Sys2Proof.Machine.State

/-! ### `State.withAgenda` -/

@[simp] theorem withAgenda_cmd (s : State) (rest : List Event) : (s.withAgenda rest).cmd = s.cmd := rfl
@[simp] theorem withAgenda_busy (s : State) (rest : List Event) : (s.withAgenda rest).busy = s.busy := rfl
@[simp] theorem withAgenda_done (s : State) (rest : List Event) : (s.withAgenda rest).done = s.done := rfl
@[simp] theorem withAgenda_err (s : State) (rest : List Event) : (s.withAgenda rest).err = s.err := rfl
@[simp] theorem withAgenda_pad (s : State) (rest : List Event) : (s.withAgenda rest).pad = s.pad := rfl
@[simp] theorem withAgenda_cfgValid (s : State) (rest : List Event) : (s.withAgenda rest).cfgValid = s.cfgValid := rfl
@[simp] theorem withAgenda_errCode (s : State) (rest : List Event) : (s.withAgenda rest).errCode = s.errCode := rfl
@[simp] theorem withAgenda_inLen (s : State) (rest : List Event) : (s.withAgenda rest).inLen = s.inLen := rfl
@[simp] theorem withAgenda_inNbits (s : State) (rest : List Event) : (s.withAgenda rest).inNbits = s.inNbits := rfl
@[simp] theorem withAgenda_argValue (s : State) (rest : List Event) : (s.withAgenda rest).argValue = s.argValue := rfl
@[simp] theorem withAgenda_result (s : State) (rest : List Event) : (s.withAgenda rest).result = s.result := rfl
@[simp] theorem withAgenda_outLen (s : State) (rest : List Event) : (s.withAgenda rest).outLen = s.outLen := rfl
@[simp] theorem withAgenda_outNbits (s : State) (rest : List Event) : (s.withAgenda rest).outNbits = s.outNbits := rfl
@[simp] theorem withAgenda_onePat (s : State) (rest : List Event) : (s.withAgenda rest).onePat = s.onePat := rfl
@[simp] theorem withAgenda_oneLen (s : State) (rest : List Event) : (s.withAgenda rest).oneLen = s.oneLen := rfl
@[simp] theorem withAgenda_zeroPat (s : State) (rest : List Event) : (s.withAgenda rest).zeroPat = s.zeroPat := rfl
@[simp] theorem withAgenda_zeroLen (s : State) (rest : List Event) : (s.withAgenda rest).zeroLen = s.zeroLen := rfl
@[simp] theorem withAgenda_inMem (s : State) (rest : List Event) : (s.withAgenda rest).inMem = s.inMem := rfl
@[simp] theorem withAgenda_outMem (s : State) (rest : List Event) : (s.withAgenda rest).outMem = s.outMem := rfl
@[simp] theorem withAgenda_agenda (s : State) (rest : List Event) : (s.withAgenda rest).agenda = rest := rfl
@[simp] theorem withAgenda_resp (s : State) (rest : List Event) : (s.withAgenda rest).resp = s.resp := rfl
@[simp] theorem withAgenda_draws (s : State) (rest : List Event) : (s.withAgenda rest).draws = s.draws := rfl

/-! ### `State.issue` -/

@[simp] theorem issue_cmd (s : State) (w : Word) : (s.issue w).cmd = w := rfl
@[simp] theorem issue_busy (s : State) (w : Word) : (s.issue w).busy = true := rfl
@[simp] theorem issue_done (s : State) (w : Word) : (s.issue w).done = false := rfl
@[simp] theorem issue_err (s : State) (w : Word) : (s.issue w).err = false := rfl
@[simp] theorem issue_pad (s : State) (w : Word) : (s.issue w).pad = false := rfl
@[simp] theorem issue_cfgValid (s : State) (w : Word) : (s.issue w).cfgValid = s.cfgValid := rfl
@[simp] theorem issue_errCode (s : State) (w : Word) : (s.issue w).errCode = 0 := rfl
@[simp] theorem issue_inLen (s : State) (w : Word) : (s.issue w).inLen = s.inLen := rfl
@[simp] theorem issue_inNbits (s : State) (w : Word) : (s.issue w).inNbits = s.inNbits := rfl
@[simp] theorem issue_argValue (s : State) (w : Word) : (s.issue w).argValue = s.argValue := rfl
@[simp] theorem issue_result (s : State) (w : Word) : (s.issue w).result = s.result := rfl
@[simp] theorem issue_outLen (s : State) (w : Word) : (s.issue w).outLen = s.outLen := rfl
@[simp] theorem issue_outNbits (s : State) (w : Word) : (s.issue w).outNbits = s.outNbits := rfl
@[simp] theorem issue_onePat (s : State) (w : Word) : (s.issue w).onePat = s.onePat := rfl
@[simp] theorem issue_oneLen (s : State) (w : Word) : (s.issue w).oneLen = s.oneLen := rfl
@[simp] theorem issue_zeroPat (s : State) (w : Word) : (s.issue w).zeroPat = s.zeroPat := rfl
@[simp] theorem issue_zeroLen (s : State) (w : Word) : (s.issue w).zeroLen = s.zeroLen := rfl
@[simp] theorem issue_inMem (s : State) (w : Word) : (s.issue w).inMem = s.inMem := rfl
@[simp] theorem issue_outMem (s : State) (w : Word) : (s.issue w).outMem = s.outMem := rfl
@[simp] theorem issue_agenda (s : State) (w : Word) : (s.issue w).agenda = s.agenda := rfl
@[simp] theorem issue_resp (s : State) (w : Word) : (s.issue w).resp = s.resp := rfl
@[simp] theorem issue_draws (s : State) (w : Word) : (s.issue w).draws = s.draws := rfl

/-! ### `State.writeBits` -/

@[simp] theorem writeBits_cmd (s : State) (bits : BitSeq) : (s.writeBits bits).cmd = s.cmd := rfl
@[simp] theorem writeBits_busy (s : State) (bits : BitSeq) : (s.writeBits bits).busy = s.busy := rfl
@[simp] theorem writeBits_done (s : State) (bits : BitSeq) : (s.writeBits bits).done = s.done := rfl
@[simp] theorem writeBits_err (s : State) (bits : BitSeq) : (s.writeBits bits).err = s.err := rfl
@[simp] theorem writeBits_pad (s : State) (bits : BitSeq) : (s.writeBits bits).pad = s.pad := rfl
@[simp] theorem writeBits_cfgValid (s : State) (bits : BitSeq) : (s.writeBits bits).cfgValid = s.cfgValid := rfl
@[simp] theorem writeBits_errCode (s : State) (bits : BitSeq) : (s.writeBits bits).errCode = s.errCode := rfl
@[simp] theorem writeBits_inLen (s : State) (bits : BitSeq) : (s.writeBits bits).inLen = s.inLen := rfl
@[simp] theorem writeBits_inNbits (s : State) (bits : BitSeq) : (s.writeBits bits).inNbits = s.inNbits := rfl
@[simp] theorem writeBits_argValue (s : State) (bits : BitSeq) : (s.writeBits bits).argValue = s.argValue := rfl
@[simp] theorem writeBits_result (s : State) (bits : BitSeq) : (s.writeBits bits).result = s.result := rfl
@[simp] theorem writeBits_outLen (s : State) (bits : BitSeq) : (s.writeBits bits).outLen = BitVec.ofNat 32 (bitsToBytes bits).length := rfl
@[simp] theorem writeBits_outNbits (s : State) (bits : BitSeq) : (s.writeBits bits).outNbits = BitVec.ofNat 32 bits.length := rfl
@[simp] theorem writeBits_onePat (s : State) (bits : BitSeq) : (s.writeBits bits).onePat = s.onePat := rfl
@[simp] theorem writeBits_oneLen (s : State) (bits : BitSeq) : (s.writeBits bits).oneLen = s.oneLen := rfl
@[simp] theorem writeBits_zeroPat (s : State) (bits : BitSeq) : (s.writeBits bits).zeroPat = s.zeroPat := rfl
@[simp] theorem writeBits_zeroLen (s : State) (bits : BitSeq) : (s.writeBits bits).zeroLen = s.zeroLen := rfl
@[simp] theorem writeBits_inMem (s : State) (bits : BitSeq) : (s.writeBits bits).inMem = s.inMem := rfl
@[simp] theorem writeBits_outMem (s : State) (bits : BitSeq) : (s.writeBits bits).outMem = Memory.holding s.draws (bitsToBytes bits) := rfl
@[simp] theorem writeBits_agenda (s : State) (bits : BitSeq) : (s.writeBits bits).agenda = s.agenda := rfl
@[simp] theorem writeBits_resp (s : State) (bits : BitSeq) : (s.writeBits bits).resp = s.resp := rfl
@[simp] theorem writeBits_draws (s : State) (bits : BitSeq) : (s.writeBits bits).draws = s.draws + 1 := rfl

/-! ### `State.writeResult` -/

@[simp] theorem writeResult_cmd (s : State) (v : Nat) : (s.writeResult v).cmd = s.cmd := rfl
@[simp] theorem writeResult_busy (s : State) (v : Nat) : (s.writeResult v).busy = s.busy := rfl
@[simp] theorem writeResult_done (s : State) (v : Nat) : (s.writeResult v).done = s.done := rfl
@[simp] theorem writeResult_err (s : State) (v : Nat) : (s.writeResult v).err = s.err := rfl
@[simp] theorem writeResult_pad (s : State) (v : Nat) : (s.writeResult v).pad = s.pad := rfl
@[simp] theorem writeResult_cfgValid (s : State) (v : Nat) : (s.writeResult v).cfgValid = s.cfgValid := rfl
@[simp] theorem writeResult_errCode (s : State) (v : Nat) : (s.writeResult v).errCode = s.errCode := rfl
@[simp] theorem writeResult_inLen (s : State) (v : Nat) : (s.writeResult v).inLen = s.inLen := rfl
@[simp] theorem writeResult_inNbits (s : State) (v : Nat) : (s.writeResult v).inNbits = s.inNbits := rfl
@[simp] theorem writeResult_argValue (s : State) (v : Nat) : (s.writeResult v).argValue = s.argValue := rfl
@[simp] theorem writeResult_result (s : State) (v : Nat) : (s.writeResult v).result = BitVec.ofNat 32 v := rfl
@[simp] theorem writeResult_outLen (s : State) (v : Nat) : (s.writeResult v).outLen = s.outLen := rfl
@[simp] theorem writeResult_outNbits (s : State) (v : Nat) : (s.writeResult v).outNbits = s.outNbits := rfl
@[simp] theorem writeResult_onePat (s : State) (v : Nat) : (s.writeResult v).onePat = s.onePat := rfl
@[simp] theorem writeResult_oneLen (s : State) (v : Nat) : (s.writeResult v).oneLen = s.oneLen := rfl
@[simp] theorem writeResult_zeroPat (s : State) (v : Nat) : (s.writeResult v).zeroPat = s.zeroPat := rfl
@[simp] theorem writeResult_zeroLen (s : State) (v : Nat) : (s.writeResult v).zeroLen = s.zeroLen := rfl
@[simp] theorem writeResult_inMem (s : State) (v : Nat) : (s.writeResult v).inMem = s.inMem := rfl
@[simp] theorem writeResult_outMem (s : State) (v : Nat) : (s.writeResult v).outMem = s.outMem := rfl
@[simp] theorem writeResult_agenda (s : State) (v : Nat) : (s.writeResult v).agenda = s.agenda := rfl
@[simp] theorem writeResult_resp (s : State) (v : Nat) : (s.writeResult v).resp = s.resp := rfl
@[simp] theorem writeResult_draws (s : State) (v : Nat) : (s.writeResult v).draws = s.draws := rfl

/-! ### `State.commitConfig` -/

@[simp] theorem commitConfig_cmd (s : State) : s.commitConfig.cmd = s.cmd := rfl
@[simp] theorem commitConfig_busy (s : State) : s.commitConfig.busy = s.busy := rfl
@[simp] theorem commitConfig_done (s : State) : s.commitConfig.done = s.done := rfl
@[simp] theorem commitConfig_err (s : State) : s.commitConfig.err = s.err := rfl
@[simp] theorem commitConfig_pad (s : State) : s.commitConfig.pad = s.pad := rfl
@[simp] theorem commitConfig_cfgValid (s : State) : s.commitConfig.cfgValid = true := rfl
@[simp] theorem commitConfig_errCode (s : State) : s.commitConfig.errCode = s.errCode := rfl
@[simp] theorem commitConfig_inLen (s : State) : s.commitConfig.inLen = s.inLen := rfl
@[simp] theorem commitConfig_inNbits (s : State) : s.commitConfig.inNbits = s.inNbits := rfl
@[simp] theorem commitConfig_argValue (s : State) : s.commitConfig.argValue = s.argValue := rfl
@[simp] theorem commitConfig_result (s : State) : s.commitConfig.result = s.result := rfl
@[simp] theorem commitConfig_outLen (s : State) : s.commitConfig.outLen = s.outLen := rfl
@[simp] theorem commitConfig_outNbits (s : State) : s.commitConfig.outNbits = s.outNbits := rfl
@[simp] theorem commitConfig_onePat (s : State) : s.commitConfig.onePat = s.onePat := rfl
@[simp] theorem commitConfig_oneLen (s : State) : s.commitConfig.oneLen = s.oneLen := rfl
@[simp] theorem commitConfig_zeroPat (s : State) : s.commitConfig.zeroPat = s.zeroPat := rfl
@[simp] theorem commitConfig_zeroLen (s : State) : s.commitConfig.zeroLen = s.zeroLen := rfl
@[simp] theorem commitConfig_inMem (s : State) : s.commitConfig.inMem = s.inMem := rfl
@[simp] theorem commitConfig_outMem (s : State) : s.commitConfig.outMem = s.outMem := rfl
@[simp] theorem commitConfig_agenda (s : State) : s.commitConfig.agenda = s.agenda := rfl
@[simp] theorem commitConfig_resp (s : State) : s.commitConfig.resp = s.resp := rfl
@[simp] theorem commitConfig_draws (s : State) : s.commitConfig.draws = s.draws := rfl

/-! ### `State.succeed` -/

@[simp] theorem succeed_cmd (s : State) (p : Bool) : (s.succeed p).cmd = s.cmd := rfl
@[simp] theorem succeed_busy (s : State) (p : Bool) : (s.succeed p).busy = false := rfl
@[simp] theorem succeed_done (s : State) (p : Bool) : (s.succeed p).done = true := rfl
@[simp] theorem succeed_err (s : State) (p : Bool) : (s.succeed p).err = false := rfl
@[simp] theorem succeed_pad (s : State) (p : Bool) : (s.succeed p).pad = p := rfl
@[simp] theorem succeed_cfgValid (s : State) (p : Bool) : (s.succeed p).cfgValid = s.cfgValid := rfl
@[simp] theorem succeed_errCode (s : State) (p : Bool) : (s.succeed p).errCode = 0 := rfl
@[simp] theorem succeed_inLen (s : State) (p : Bool) : (s.succeed p).inLen = s.inLen := rfl
@[simp] theorem succeed_inNbits (s : State) (p : Bool) : (s.succeed p).inNbits = s.inNbits := rfl
@[simp] theorem succeed_argValue (s : State) (p : Bool) : (s.succeed p).argValue = s.argValue := rfl
@[simp] theorem succeed_result (s : State) (p : Bool) : (s.succeed p).result = s.result := rfl
@[simp] theorem succeed_outLen (s : State) (p : Bool) : (s.succeed p).outLen = s.outLen := rfl
@[simp] theorem succeed_outNbits (s : State) (p : Bool) : (s.succeed p).outNbits = s.outNbits := rfl
@[simp] theorem succeed_onePat (s : State) (p : Bool) : (s.succeed p).onePat = s.onePat := rfl
@[simp] theorem succeed_oneLen (s : State) (p : Bool) : (s.succeed p).oneLen = s.oneLen := rfl
@[simp] theorem succeed_zeroPat (s : State) (p : Bool) : (s.succeed p).zeroPat = s.zeroPat := rfl
@[simp] theorem succeed_zeroLen (s : State) (p : Bool) : (s.succeed p).zeroLen = s.zeroLen := rfl
@[simp] theorem succeed_inMem (s : State) (p : Bool) : (s.succeed p).inMem = s.inMem := rfl
@[simp] theorem succeed_outMem (s : State) (p : Bool) : (s.succeed p).outMem = s.outMem := rfl
@[simp] theorem succeed_agenda (s : State) (p : Bool) : (s.succeed p).agenda = s.agenda := rfl
@[simp] theorem succeed_resp (s : State) (p : Bool) : (s.succeed p).resp = s.resp := rfl
@[simp] theorem succeed_draws (s : State) (p : Bool) : (s.succeed p).draws = s.draws := rfl

/-! ### `State.raiseErr` -/

@[simp] theorem raiseErr_cmd (s : State) (e : CmdError) : (s.raiseErr e).cmd = s.cmd := rfl
@[simp] theorem raiseErr_busy (s : State) (e : CmdError) : (s.raiseErr e).busy = false := rfl
@[simp] theorem raiseErr_done (s : State) (e : CmdError) : (s.raiseErr e).done = true := rfl
@[simp] theorem raiseErr_err (s : State) (e : CmdError) : (s.raiseErr e).err = true := rfl
@[simp] theorem raiseErr_pad (s : State) (e : CmdError) : (s.raiseErr e).pad = false := rfl
@[simp] theorem raiseErr_cfgValid (s : State) (e : CmdError) : (s.raiseErr e).cfgValid = s.cfgValid := rfl
@[simp] theorem raiseErr_errCode (s : State) (e : CmdError) : (s.raiseErr e).errCode = e.code := rfl
@[simp] theorem raiseErr_inLen (s : State) (e : CmdError) : (s.raiseErr e).inLen = s.inLen := rfl
@[simp] theorem raiseErr_inNbits (s : State) (e : CmdError) : (s.raiseErr e).inNbits = s.inNbits := rfl
@[simp] theorem raiseErr_argValue (s : State) (e : CmdError) : (s.raiseErr e).argValue = s.argValue := rfl
@[simp] theorem raiseErr_result (s : State) (e : CmdError) : (s.raiseErr e).result = s.result := rfl
@[simp] theorem raiseErr_outLen (s : State) (e : CmdError) : (s.raiseErr e).outLen = s.outLen := rfl
@[simp] theorem raiseErr_outNbits (s : State) (e : CmdError) : (s.raiseErr e).outNbits = s.outNbits := rfl
@[simp] theorem raiseErr_onePat (s : State) (e : CmdError) : (s.raiseErr e).onePat = s.onePat := rfl
@[simp] theorem raiseErr_oneLen (s : State) (e : CmdError) : (s.raiseErr e).oneLen = s.oneLen := rfl
@[simp] theorem raiseErr_zeroPat (s : State) (e : CmdError) : (s.raiseErr e).zeroPat = s.zeroPat := rfl
@[simp] theorem raiseErr_zeroLen (s : State) (e : CmdError) : (s.raiseErr e).zeroLen = s.zeroLen := rfl
@[simp] theorem raiseErr_inMem (s : State) (e : CmdError) : (s.raiseErr e).inMem = s.inMem := rfl
@[simp] theorem raiseErr_outMem (s : State) (e : CmdError) : (s.raiseErr e).outMem = s.outMem := rfl
@[simp] theorem raiseErr_agenda (s : State) (e : CmdError) : (s.raiseErr e).agenda = s.agenda := rfl
@[simp] theorem raiseErr_resp (s : State) (e : CmdError) : (s.raiseErr e).resp = s.resp := rfl
@[simp] theorem raiseErr_draws (s : State) (e : CmdError) : (s.raiseErr e).draws = s.draws := rfl

/-! ### `State.resetEvent` -/

@[simp] theorem resetEvent_cmd (s : State) : s.resetEvent.cmd = 0 := rfl
@[simp] theorem resetEvent_busy (s : State) : s.resetEvent.busy = false := rfl
@[simp] theorem resetEvent_done (s : State) : s.resetEvent.done = false := rfl
@[simp] theorem resetEvent_err (s : State) : s.resetEvent.err = false := rfl
@[simp] theorem resetEvent_pad (s : State) : s.resetEvent.pad = false := rfl
@[simp] theorem resetEvent_cfgValid (s : State) : s.resetEvent.cfgValid = false := rfl
@[simp] theorem resetEvent_errCode (s : State) : s.resetEvent.errCode = 0 := rfl
@[simp] theorem resetEvent_inLen (s : State) : s.resetEvent.inLen = 0 := rfl
@[simp] theorem resetEvent_inNbits (s : State) : s.resetEvent.inNbits = 0 := rfl
@[simp] theorem resetEvent_argValue (s : State) : s.resetEvent.argValue = 0 := rfl
@[simp] theorem resetEvent_result (s : State) : s.resetEvent.result = 0 := rfl
@[simp] theorem resetEvent_outLen (s : State) : s.resetEvent.outLen = 0 := rfl
@[simp] theorem resetEvent_outNbits (s : State) : s.resetEvent.outNbits = 0 := rfl
@[simp] theorem resetEvent_onePat (s : State) : s.resetEvent.onePat = 0 := rfl
@[simp] theorem resetEvent_oneLen (s : State) : s.resetEvent.oneLen = 0 := rfl
@[simp] theorem resetEvent_zeroPat (s : State) : s.resetEvent.zeroPat = 0 := rfl
@[simp] theorem resetEvent_zeroLen (s : State) : s.resetEvent.zeroLen = 0 := rfl
@[simp] theorem resetEvent_inMem (s : State) : s.resetEvent.inMem = ⟨s.draws, []⟩ := rfl
@[simp] theorem resetEvent_outMem (s : State) : s.resetEvent.outMem = ⟨s.draws + 1, []⟩ := rfl
@[simp] theorem resetEvent_agenda (s : State) : s.resetEvent.agenda = s.agenda := rfl
@[simp] theorem resetEvent_resp (s : State) : s.resetEvent.resp = none := rfl
@[simp] theorem resetEvent_draws (s : State) : s.resetEvent.draws = s.draws + 2 := rfl

/-! ### `State.respond` -/

@[simp] theorem respond_cmd (s : State) (r : Response) : (s.respond r).cmd = s.cmd := rfl
@[simp] theorem respond_busy (s : State) (r : Response) : (s.respond r).busy = s.busy := rfl
@[simp] theorem respond_done (s : State) (r : Response) : (s.respond r).done = s.done := rfl
@[simp] theorem respond_err (s : State) (r : Response) : (s.respond r).err = s.err := rfl
@[simp] theorem respond_pad (s : State) (r : Response) : (s.respond r).pad = s.pad := rfl
@[simp] theorem respond_cfgValid (s : State) (r : Response) : (s.respond r).cfgValid = s.cfgValid := rfl
@[simp] theorem respond_errCode (s : State) (r : Response) : (s.respond r).errCode = s.errCode := rfl
@[simp] theorem respond_inLen (s : State) (r : Response) : (s.respond r).inLen = s.inLen := rfl
@[simp] theorem respond_inNbits (s : State) (r : Response) : (s.respond r).inNbits = s.inNbits := rfl
@[simp] theorem respond_argValue (s : State) (r : Response) : (s.respond r).argValue = s.argValue := rfl
@[simp] theorem respond_result (s : State) (r : Response) : (s.respond r).result = s.result := rfl
@[simp] theorem respond_outLen (s : State) (r : Response) : (s.respond r).outLen = s.outLen := rfl
@[simp] theorem respond_outNbits (s : State) (r : Response) : (s.respond r).outNbits = s.outNbits := rfl
@[simp] theorem respond_onePat (s : State) (r : Response) : (s.respond r).onePat = s.onePat := rfl
@[simp] theorem respond_oneLen (s : State) (r : Response) : (s.respond r).oneLen = s.oneLen := rfl
@[simp] theorem respond_zeroPat (s : State) (r : Response) : (s.respond r).zeroPat = s.zeroPat := rfl
@[simp] theorem respond_zeroLen (s : State) (r : Response) : (s.respond r).zeroLen = s.zeroLen := rfl
@[simp] theorem respond_inMem (s : State) (r : Response) : (s.respond r).inMem = s.inMem := rfl
@[simp] theorem respond_outMem (s : State) (r : Response) : (s.respond r).outMem = s.outMem := rfl
@[simp] theorem respond_agenda (s : State) (r : Response) : (s.respond r).agenda = s.agenda := rfl
@[simp] theorem respond_resp (s : State) (r : Response) : (s.respond r).resp = some r := rfl
@[simp] theorem respond_draws (s : State) (r : Response) : (s.respond r).draws = s.draws := rfl

/-! ### `State.respondFree` -/

@[simp] theorem respondFree_cmd (s : State) : s.respondFree.cmd = s.cmd := rfl
@[simp] theorem respondFree_busy (s : State) : s.respondFree.busy = s.busy := rfl
@[simp] theorem respondFree_done (s : State) : s.respondFree.done = s.done := rfl
@[simp] theorem respondFree_err (s : State) : s.respondFree.err = s.err := rfl
@[simp] theorem respondFree_pad (s : State) : s.respondFree.pad = s.pad := rfl
@[simp] theorem respondFree_cfgValid (s : State) : s.respondFree.cfgValid = s.cfgValid := rfl
@[simp] theorem respondFree_errCode (s : State) : s.respondFree.errCode = s.errCode := rfl
@[simp] theorem respondFree_inLen (s : State) : s.respondFree.inLen = s.inLen := rfl
@[simp] theorem respondFree_inNbits (s : State) : s.respondFree.inNbits = s.inNbits := rfl
@[simp] theorem respondFree_argValue (s : State) : s.respondFree.argValue = s.argValue := rfl
@[simp] theorem respondFree_result (s : State) : s.respondFree.result = s.result := rfl
@[simp] theorem respondFree_outLen (s : State) : s.respondFree.outLen = s.outLen := rfl
@[simp] theorem respondFree_outNbits (s : State) : s.respondFree.outNbits = s.outNbits := rfl
@[simp] theorem respondFree_onePat (s : State) : s.respondFree.onePat = s.onePat := rfl
@[simp] theorem respondFree_oneLen (s : State) : s.respondFree.oneLen = s.oneLen := rfl
@[simp] theorem respondFree_zeroPat (s : State) : s.respondFree.zeroPat = s.zeroPat := rfl
@[simp] theorem respondFree_zeroLen (s : State) : s.respondFree.zeroLen = s.zeroLen := rfl
@[simp] theorem respondFree_inMem (s : State) : s.respondFree.inMem = s.inMem := rfl
@[simp] theorem respondFree_outMem (s : State) : s.respondFree.outMem = s.outMem := rfl
@[simp] theorem respondFree_agenda (s : State) : s.respondFree.agenda = s.agenda := rfl
@[simp] theorem respondFree_resp (s : State) : s.respondFree.resp = some (.readOk (Config.freeWord s.draws)) := rfl
@[simp] theorem respondFree_draws (s : State) : s.respondFree.draws = s.draws + 1 := rfl

/-! ### `State.refuseRead` -/

@[simp] theorem refuseRead_cmd (s : State) : s.refuseRead.cmd = s.cmd := rfl
@[simp] theorem refuseRead_busy (s : State) : s.refuseRead.busy = s.busy := rfl
@[simp] theorem refuseRead_done (s : State) : s.refuseRead.done = s.done := rfl
@[simp] theorem refuseRead_err (s : State) : s.refuseRead.err = s.err := rfl
@[simp] theorem refuseRead_pad (s : State) : s.refuseRead.pad = s.pad := rfl
@[simp] theorem refuseRead_cfgValid (s : State) : s.refuseRead.cfgValid = s.cfgValid := rfl
@[simp] theorem refuseRead_errCode (s : State) : s.refuseRead.errCode = s.errCode := rfl
@[simp] theorem refuseRead_inLen (s : State) : s.refuseRead.inLen = s.inLen := rfl
@[simp] theorem refuseRead_inNbits (s : State) : s.refuseRead.inNbits = s.inNbits := rfl
@[simp] theorem refuseRead_argValue (s : State) : s.refuseRead.argValue = s.argValue := rfl
@[simp] theorem refuseRead_result (s : State) : s.refuseRead.result = s.result := rfl
@[simp] theorem refuseRead_outLen (s : State) : s.refuseRead.outLen = s.outLen := rfl
@[simp] theorem refuseRead_outNbits (s : State) : s.refuseRead.outNbits = s.outNbits := rfl
@[simp] theorem refuseRead_onePat (s : State) : s.refuseRead.onePat = s.onePat := rfl
@[simp] theorem refuseRead_oneLen (s : State) : s.refuseRead.oneLen = s.oneLen := rfl
@[simp] theorem refuseRead_zeroPat (s : State) : s.refuseRead.zeroPat = s.zeroPat := rfl
@[simp] theorem refuseRead_zeroLen (s : State) : s.refuseRead.zeroLen = s.zeroLen := rfl
@[simp] theorem refuseRead_inMem (s : State) : s.refuseRead.inMem = s.inMem := rfl
@[simp] theorem refuseRead_outMem (s : State) : s.refuseRead.outMem = s.outMem := rfl
@[simp] theorem refuseRead_agenda (s : State) : s.refuseRead.agenda = s.agenda := rfl
@[simp] theorem refuseRead_resp (s : State) : s.refuseRead.resp = some (.readError 0) := rfl
@[simp] theorem refuseRead_draws (s : State) : s.refuseRead.draws = s.draws := rfl

/-! ### `State.refuseWrite` -/

@[simp] theorem refuseWrite_cmd (s : State) : s.refuseWrite.cmd = s.cmd := rfl
@[simp] theorem refuseWrite_busy (s : State) : s.refuseWrite.busy = s.busy := rfl
@[simp] theorem refuseWrite_done (s : State) : s.refuseWrite.done = s.done := rfl
@[simp] theorem refuseWrite_err (s : State) : s.refuseWrite.err = s.err := rfl
@[simp] theorem refuseWrite_pad (s : State) : s.refuseWrite.pad = s.pad := rfl
@[simp] theorem refuseWrite_cfgValid (s : State) : s.refuseWrite.cfgValid = s.cfgValid := rfl
@[simp] theorem refuseWrite_errCode (s : State) : s.refuseWrite.errCode = s.errCode := rfl
@[simp] theorem refuseWrite_inLen (s : State) : s.refuseWrite.inLen = s.inLen := rfl
@[simp] theorem refuseWrite_inNbits (s : State) : s.refuseWrite.inNbits = s.inNbits := rfl
@[simp] theorem refuseWrite_argValue (s : State) : s.refuseWrite.argValue = s.argValue := rfl
@[simp] theorem refuseWrite_result (s : State) : s.refuseWrite.result = s.result := rfl
@[simp] theorem refuseWrite_outLen (s : State) : s.refuseWrite.outLen = s.outLen := rfl
@[simp] theorem refuseWrite_outNbits (s : State) : s.refuseWrite.outNbits = s.outNbits := rfl
@[simp] theorem refuseWrite_onePat (s : State) : s.refuseWrite.onePat = s.onePat := rfl
@[simp] theorem refuseWrite_oneLen (s : State) : s.refuseWrite.oneLen = s.oneLen := rfl
@[simp] theorem refuseWrite_zeroPat (s : State) : s.refuseWrite.zeroPat = s.zeroPat := rfl
@[simp] theorem refuseWrite_zeroLen (s : State) : s.refuseWrite.zeroLen = s.zeroLen := rfl
@[simp] theorem refuseWrite_inMem (s : State) : s.refuseWrite.inMem = s.inMem := rfl
@[simp] theorem refuseWrite_outMem (s : State) : s.refuseWrite.outMem = s.outMem := rfl
@[simp] theorem refuseWrite_agenda (s : State) : s.refuseWrite.agenda = s.agenda := rfl
@[simp] theorem refuseWrite_resp (s : State) : s.refuseWrite.resp = some .writeError := rfl
@[simp] theorem refuseWrite_draws (s : State) : s.refuseWrite.draws = s.draws := rfl

/-! ### `State.writeInWord` -/

@[simp] theorem writeInWord_cmd (s : State) (i : Nat) (w : Word) : (s.writeInWord i w).cmd = s.cmd := rfl
@[simp] theorem writeInWord_busy (s : State) (i : Nat) (w : Word) : (s.writeInWord i w).busy = s.busy := rfl
@[simp] theorem writeInWord_done (s : State) (i : Nat) (w : Word) : (s.writeInWord i w).done = s.done := rfl
@[simp] theorem writeInWord_err (s : State) (i : Nat) (w : Word) : (s.writeInWord i w).err = s.err := rfl
@[simp] theorem writeInWord_pad (s : State) (i : Nat) (w : Word) : (s.writeInWord i w).pad = s.pad := rfl
@[simp] theorem writeInWord_cfgValid (s : State) (i : Nat) (w : Word) : (s.writeInWord i w).cfgValid = s.cfgValid := rfl
@[simp] theorem writeInWord_errCode (s : State) (i : Nat) (w : Word) : (s.writeInWord i w).errCode = s.errCode := rfl
@[simp] theorem writeInWord_inLen (s : State) (i : Nat) (w : Word) : (s.writeInWord i w).inLen = s.inLen := rfl
@[simp] theorem writeInWord_inNbits (s : State) (i : Nat) (w : Word) : (s.writeInWord i w).inNbits = s.inNbits := rfl
@[simp] theorem writeInWord_argValue (s : State) (i : Nat) (w : Word) : (s.writeInWord i w).argValue = s.argValue := rfl
@[simp] theorem writeInWord_result (s : State) (i : Nat) (w : Word) : (s.writeInWord i w).result = s.result := rfl
@[simp] theorem writeInWord_outLen (s : State) (i : Nat) (w : Word) : (s.writeInWord i w).outLen = s.outLen := rfl
@[simp] theorem writeInWord_outNbits (s : State) (i : Nat) (w : Word) : (s.writeInWord i w).outNbits = s.outNbits := rfl
@[simp] theorem writeInWord_onePat (s : State) (i : Nat) (w : Word) : (s.writeInWord i w).onePat = s.onePat := rfl
@[simp] theorem writeInWord_oneLen (s : State) (i : Nat) (w : Word) : (s.writeInWord i w).oneLen = s.oneLen := rfl
@[simp] theorem writeInWord_zeroPat (s : State) (i : Nat) (w : Word) : (s.writeInWord i w).zeroPat = s.zeroPat := rfl
@[simp] theorem writeInWord_zeroLen (s : State) (i : Nat) (w : Word) : (s.writeInWord i w).zeroLen = s.zeroLen := rfl
@[simp] theorem writeInWord_inMem (s : State) (i : Nat) (w : Word) : (s.writeInWord i w).inMem = s.inMem.writeWord i w := rfl
@[simp] theorem writeInWord_outMem (s : State) (i : Nat) (w : Word) : (s.writeInWord i w).outMem = s.outMem := rfl
@[simp] theorem writeInWord_agenda (s : State) (i : Nat) (w : Word) : (s.writeInWord i w).agenda = s.agenda := rfl
@[simp] theorem writeInWord_resp (s : State) (i : Nat) (w : Word) : (s.writeInWord i w).resp = s.resp := rfl
@[simp] theorem writeInWord_draws (s : State) (i : Nat) (w : Word) : (s.writeInWord i w).draws = s.draws := rfl

/-! ### `State.reset` -/

@[simp] theorem reset_cmd : State.reset.cmd = 0 := rfl
@[simp] theorem reset_busy : State.reset.busy = false := rfl
@[simp] theorem reset_done : State.reset.done = false := rfl
@[simp] theorem reset_err : State.reset.err = false := rfl
@[simp] theorem reset_pad : State.reset.pad = false := rfl
@[simp] theorem reset_cfgValid : State.reset.cfgValid = false := rfl
@[simp] theorem reset_errCode : State.reset.errCode = 0 := rfl
@[simp] theorem reset_inLen : State.reset.inLen = 0 := rfl
@[simp] theorem reset_inNbits : State.reset.inNbits = 0 := rfl
@[simp] theorem reset_argValue : State.reset.argValue = 0 := rfl
@[simp] theorem reset_result : State.reset.result = 0 := rfl
@[simp] theorem reset_outLen : State.reset.outLen = 0 := rfl
@[simp] theorem reset_outNbits : State.reset.outNbits = 0 := rfl
@[simp] theorem reset_onePat : State.reset.onePat = 0 := rfl
@[simp] theorem reset_oneLen : State.reset.oneLen = 0 := rfl
@[simp] theorem reset_zeroPat : State.reset.zeroPat = 0 := rfl
@[simp] theorem reset_zeroLen : State.reset.zeroLen = 0 := rfl
@[simp] theorem reset_inMem : State.reset.inMem = ⟨0, []⟩ := rfl
@[simp] theorem reset_outMem : State.reset.outMem = ⟨1, []⟩ := rfl
@[simp] theorem reset_agenda : State.reset.agenda = [] := rfl
@[simp] theorem reset_resp : State.reset.resp = none := rfl
@[simp] theorem reset_draws : State.reset.draws = 2 := rfl

/-! ### The assembled operands read only their own registers -/

@[simp] theorem withAgenda_oneSeq (s : State) (rest : List Event) : (s.withAgenda rest).oneSeq = s.oneSeq := rfl
@[simp] theorem issue_oneSeq (s : State) (w : Word) : (s.issue w).oneSeq = s.oneSeq := rfl
@[simp] theorem withAgenda_zeroSeq (s : State) (rest : List Event) : (s.withAgenda rest).zeroSeq = s.zeroSeq := rfl
@[simp] theorem issue_zeroSeq (s : State) (w : Word) : (s.issue w).zeroSeq = s.zeroSeq := rfl
@[simp] theorem withAgenda_patternsLegal (s : State) (rest : List Event) : (s.withAgenda rest).patternsLegal = s.patternsLegal := rfl
@[simp] theorem issue_patternsLegal (s : State) (w : Word) : (s.issue w).patternsLegal = s.patternsLegal := rfl
@[simp] theorem withAgenda_inputBytes (s : State) (rest : List Event) : (s.withAgenda rest).inputBytes = s.inputBytes := rfl
@[simp] theorem issue_inputBytes (s : State) (w : Word) : (s.issue w).inputBytes = s.inputBytes := rfl
@[simp] theorem withAgenda_inputBits (s : State) (rest : List Event) : (s.withAgenda rest).inputBits = s.inputBits := rfl
@[simp] theorem issue_inputBits (s : State) (w : Word) : (s.issue w).inputBits = s.inputBits := rfl
@[simp] theorem withAgenda_inLenInRange (s : State) (rest : List Event) : (s.withAgenda rest).inLenInRange = s.inLenInRange := rfl
@[simp] theorem issue_inLenInRange (s : State) (w : Word) : (s.issue w).inLenInRange = s.inLenInRange := rfl
@[simp] theorem withAgenda_inNbitsInRange (s : State) (rest : List Event) : (s.withAgenda rest).inNbitsInRange = s.inNbitsInRange := rfl
@[simp] theorem issue_inNbitsInRange (s : State) (w : Word) : (s.issue w).inNbitsInRange = s.inNbitsInRange := rfl
@[simp] theorem withAgenda_inNbitsFitResult (s : State) (rest : List Event) : (s.withAgenda rest).inNbitsFitResult = s.inNbitsFitResult := rfl
@[simp] theorem issue_inNbitsFitResult (s : State) (w : Word) : (s.issue w).inNbitsFitResult = s.inNbitsFitResult := rfl

end Sys2Proof.Machine.State
end

