-- ==== Sys2Proof/Laws/Step.lean ====
section
/-! SUPPORT. What each meaning, the engine, a host access and a step can do, said once: the lemmas a proof cites
instead of unfolding them. -/

namespace Sys2Proof.Machine

/-! ### `exec` is its arms -/

@[simp] theorem exec_configure (s : State) : exec .configure s = execConfigure s := rfl
@[simp] theorem exec_decodeBytes (s : State) : exec .decodeBytes s = execDecodeBytes s := rfl
@[simp] theorem exec_decodeBits (s : State) : exec .decodeBits s = execDecodeBits s := rfl
@[simp] theorem exec_bytesToBits (s : State) : exec .bytesToBits s = execBytesToBits s := rfl
@[simp] theorem exec_bitsToBytes (s : State) : exec .bitsToBytes s = execBitsToBytes s := rfl
@[simp] theorem exec_intToBits (w : Nat) (s : State) : exec (.intToBits w) s = execIntToBits w s := rfl
@[simp] theorem exec_bitsToInt (i r : Bool) (s : State) : exec (.bitsToInt i r) s = execBitsToInt i r s := rfl

/-! ### The meanings, case by case -/

theorem execConfigure_cases {s t : State} (h : execConfigure s = .next t) :
    (s.cfgValid = true ∧ t = s.raiseErr .configLocked) ∨
    (s.cfgValid = false ∧ s.patternsLegal = true ∧ t = s.commitConfig.succeed false) ∨
    (s.cfgValid = false ∧ s.patternsLegal = false ∧ t = s.raiseErr .configurationError) := by
  unfold execConfigure at h
  split_ifs at h with hc hp <;> cases h <;> simp_all

theorem execDecodeBits_cases {s t : State} (h : execDecodeBits s = .next t) :
    (s.cfgValid = false ∧ t = s.raiseErr .notConfigured) ∨
    (s.cfgValid = true ∧ s.inNbitsInRange = false ∧ t = s.raiseErr .argumentRange) ∨
    (s.cfgValid = true ∧ s.inNbitsInRange = true ∧ s.patternsLegal = true ∧
      t = (s.writeBits (lineDecode s.inputBits s.oneSeq s.zeroSeq)).succeed false) := by
  unfold execDecodeBits at h
  split_ifs at h with hc hr hp <;> cases h <;> simp_all

theorem execDecodeBytes_cases {s t : State} (h : execDecodeBytes s = .next t) :
    (s.cfgValid = false ∧ t = s.raiseErr .notConfigured) ∨
    (s.cfgValid = true ∧ s.inLenInRange = false ∧ t = s.raiseErr .argumentRange) ∨
    (s.cfgValid = true ∧ s.inLenInRange = true ∧ s.patternsLegal = true ∧
      t = (s.writeBits s.decodedPayload).succeed (padNotice s.decodedPayload.length)) := by
  unfold execDecodeBytes at h
  split_ifs at h with hc hr hp <;> cases h <;> simp_all

theorem execBytesToBits_cases {s t : State} (h : execBytesToBits s = .next t) :
    (s.inLenInRange = false ∧ t = s.raiseErr .argumentRange) ∨
    (s.inLenInRange = true ∧ t = (s.writeBits (bytesToBits s.inputBytes)).succeed false) := by
  unfold execBytesToBits at h
  split_ifs at h with hr <;> cases h <;> simp_all

theorem execBitsToBytes_cases {s t : State} (h : execBitsToBytes s = .next t) :
    (s.inNbitsInRange = false ∧ t = s.raiseErr .argumentRange) ∨
    (s.inNbitsInRange = true ∧ t = (s.writeBits s.inputBits).succeed (padNotice s.inNbits.toNat)) := by
  unfold execBitsToBytes at h
  split_ifs at h with hr <;> cases h <;> simp_all

theorem execIntToBits_cases {w : Nat} {s t : State} (h : execIntToBits w s = .next t) :
    (2 ^ w ≤ s.argValue.toNat ∧ t = s.raiseErr .encodingError) ∨
    (s.argValue.toNat < 2 ^ w ∧
      t = (s.writeBits ((List.range w).map (msbBit s.argValue.toNat w))).succeed false) := by
  unfold execIntToBits at h
  rcases Nat.lt_or_ge s.argValue.toNat (2 ^ w) with hl | hl
  · rw [intToBits_of_lt hl] at h
    cases h
    exact .inr ⟨hl, rfl⟩
  · rw [intToBits_of_le hl] at h
    cases h
    exact .inl ⟨hl, rfl⟩

theorem execBitsToInt_cases {i r : Bool} {s t : State} (h : execBitsToInt i r s = .next t) :
    (s.inNbitsFitResult = false ∧ t = s.raiseErr .argumentRange) ∨
    (s.inNbitsFitResult = true ∧ t = (s.writeResult (bitsToInt s.inputBits i r)).succeed false) := by
  unfold execBitsToInt at h
  split_ifs at h with hr <;> cases h <;> simp_all

/-- Everything a command's completion can do: raise an error, commit, write RESULT, or write a packed output. -/
theorem exec_cases {i : Instr} {s t : State} (h : exec i s = .next t) :
    (∃ e, t = s.raiseErr e) ∨
    (i = .configure ∧ s.cfgValid = false ∧ s.patternsLegal = true ∧ t = s.commitConfig.succeed false) ∨
    (∃ inv rev, i = .bitsToInt inv rev ∧ s.inNbitsFitResult = true ∧
      t = (s.writeResult (bitsToInt s.inputBits inv rev)).succeed false) ∨
    (∃ bits p, t = (s.writeBits bits).succeed p) := by
  cases i with
  | configure => rcases execConfigure_cases h with ⟨_, rfl⟩ | ⟨h1, h2, rfl⟩ | ⟨_, _, rfl⟩ <;> simp_all
  | decodeBytes =>
    rcases execDecodeBytes_cases h with ⟨_, rfl⟩ | ⟨_, _, rfl⟩ | ⟨_, _, _, rfl⟩
    · exact .inl ⟨_, rfl⟩
    · exact .inl ⟨_, rfl⟩
    · exact .inr (.inr (.inr ⟨_, _, rfl⟩))
  | decodeBits =>
    rcases execDecodeBits_cases h with ⟨_, rfl⟩ | ⟨_, _, rfl⟩ | ⟨_, _, _, rfl⟩
    · exact .inl ⟨_, rfl⟩
    · exact .inl ⟨_, rfl⟩
    · exact .inr (.inr (.inr ⟨_, _, rfl⟩))
  | bytesToBits =>
    rcases execBytesToBits_cases h with ⟨_, rfl⟩ | ⟨_, rfl⟩
    · exact .inl ⟨_, rfl⟩
    · exact .inr (.inr (.inr ⟨_, _, rfl⟩))
  | bitsToBytes =>
    rcases execBitsToBytes_cases h with ⟨_, rfl⟩ | ⟨_, rfl⟩
    · exact .inl ⟨_, rfl⟩
    · exact .inr (.inr (.inr ⟨_, _, rfl⟩))
  | intToBits w =>
    rcases execIntToBits_cases h with ⟨_, rfl⟩ | ⟨_, rfl⟩
    · exact .inl ⟨_, rfl⟩
    · exact .inr (.inr (.inr ⟨_, _, rfl⟩))
  | bitsToInt inv rev =>
    rcases execBitsToInt_cases h with ⟨_, rfl⟩ | ⟨h1, rfl⟩
    · exact .inl ⟨_, rfl⟩
    · exact .inr (.inr (.inl ⟨_, _, rfl, h1, rfl⟩))

/-! ### The engine -/

theorem completion_of_decode {s : State} {i : Instr} (h : decodeCmd s.cmd = .ok i) : completion s = exec i s := by
  simp [completion, h]

theorem completion_of_illegal {s : State} {e : DecodeError} (h : decodeCmd s.cmd = .error e) :
    completion s = .next (s.raiseErr .illegalCommand) := by
  simp [completion, h]

theorem engineTurn_busy {s : State} (h : s.busy = true) : engineTurn s = completion s := by simp [engineTurn, h]

theorem engineTurn_idle {s : State} (h : s.busy = false) : engineTurn s = .next s := by simp [engineTurn, h]

/-! ### Host accesses -/

/-- Everything a register write can do. -/
theorem writeReg_cases {s t : State} {r : Reg} {w : Word} (h : s.writeReg r w = some t) :
    (r = .cmd ∧ t = s.issue w) ∨
    (r = .inLen ∧ t = { s with inLen := w }) ∨ (r = .inNbits ∧ t = { s with inNbits := w }) ∨
    (r = .argValue ∧ t = { s with argValue := w }) ∨
    (s.cfgValid = false ∧
      ((r = .onePat ∧ t = { s with onePat := w }) ∨ (r = .oneLen ∧ t = { s with oneLen := w.extractLsb' 0 6 }) ∨
       (r = .zeroPat ∧ t = { s with zeroPat := w }) ∨ (r = .zeroLen ∧ t = { s with zeroLen := w.extractLsb' 0 6 }))) := by
  cases r <;> simp only [State.writeReg] at h
  all_goals first
    | (split_ifs at h with hc <;> cases h <;> simp_all)
    | (cases h <;> simp)

/-- Everything a host access can do: answer and change nothing of the spec's state, issue or write a register, or
write a word of IN_MEM. -/
theorem hostAccess_cases (s : State) (a : Access) :
    (∃ r, s.hostAccess a = s.respond r) ∨ (s.busy = true ∧ s.hostAccess a = s.respondFree) ∨
    (s.busy = false ∧ ∃ r w t, s.writeReg r w = some t ∧ s.hostAccess a = t.respond .writeOk) ∨
    (s.busy = false ∧ ∃ offset w i, aligned offset = true ∧ target offset = .inWord i ∧
      s.hostAccess a = (s.writeInWord i w).respond .writeOk) := by
  cases a with
  | read offset =>
    simp only [State.hostAccess]
    split_ifs
    · cases target offset with
      | reg r =>
        simp only [State.readTarget]
        split_ifs with hb
        · exact .inr (.inl ⟨by simp_all, rfl⟩)
        · exact .inl ⟨_, rfl⟩
      | inWord i => exact .inl ⟨_, rfl⟩
      | outWord i =>
        simp only [State.readTarget]
        split_ifs with hb
        · exact .inr (.inl ⟨hb, rfl⟩)
        · exact .inl ⟨_, rfl⟩
      | unmapped => exact .inl ⟨_, rfl⟩
    · exact .inl ⟨_, rfl⟩
  | write offset w strobes =>
    simp only [State.hostAccess]
    split_ifs with hg
    · simp only [Bool.and_eq_true, Bool.not_eq_true'] at hg
      generalize ht : target offset = tg
      cases tg with
      | reg r =>
        simp only [State.writeTarget]
        cases hw : s.writeReg r w with
        | none => exact .inl ⟨_, rfl⟩
        | some t => exact .inr (.inr (.inl ⟨hg.2, r, w, t, hw, rfl⟩))
      | inWord i => exact .inr (.inr (.inr ⟨hg.2, offset, w, i, hg.1.1, ht, rfl⟩))
      | outWord i => exact .inl ⟨_, rfl⟩
      | unmapped => exact .inl ⟨_, rfl⟩
    · exact .inl ⟨_, rfl⟩

theorem aligned_iff (offset : BitVec 18) : aligned offset = true ↔ offset.toNat % 4 = 0 := by
  rw [aligned, beq_iff_eq, ← BitVec.toNat_inj, BitVec.extractLsb'_toNat]
  simp

/-- A word of IN_MEM at an aligned offset lies inside the buffer whole (20_memory R71). -/
theorem target_inWord_bound {offset : BitVec 18} {i : Nat} (ha : aligned offset = true) (h : target offset = .inWord i) :
    i % 4 = 0 ∧ i + 3 < Config.bufBytes := by
  rw [aligned_iff] at ha
  have hb := bufBytes_legal
  unfold target at h
  split at h
  · split at h <;> cases h
  · split_ifs at h
    cases h
    omega
  · split_ifs at h
  · cases h

/-! ### The step -/

theorem step_nil {s : State} (h : s.agenda = []) : step s = engineTurn s := by simp [step, h]

theorem step_cons {s : State} {e : Event} {rest : List Event} (h : s.agenda = e :: rest) :
    step s = (s.withAgenda rest).take e := by simp [step, h]

@[simp] theorem take_access (s : State) (a : Access) : s.take (.access a) = .next (s.hostAccess a) := rfl
@[simp] theorem take_engine (s : State) : s.take .engine = engineTurn s := rfl
@[simp] theorem take_reset (s : State) : s.take .reset = .next s.resetEvent := rfl

/-- Everything a step can be. -/
theorem step_cases (s : State) :
    (s.agenda = [] ∧ step s = engineTurn s) ∨
    (∃ rest, s.agenda = .engine :: rest ∧ step s = engineTurn (s.withAgenda rest)) ∨
    (∃ a rest, s.agenda = .access a :: rest ∧ step s = .next ((s.withAgenda rest).hostAccess a)) ∨
    (∃ rest, s.agenda = .reset :: rest ∧ step s = .next (s.withAgenda rest).resetEvent) := by
  cases h : s.agenda with
  | nil => exact .inl ⟨rfl, step_nil h⟩
  | cons e rest =>
    cases e with
    | access a => exact .inr (.inr (.inl ⟨a, rest, rfl, by rw [step_cons h]; rfl⟩))
    | engine => exact .inr (.inl ⟨rest, rfl, by rw [step_cons h]; rfl⟩)
    | reset => exact .inr (.inr (.inr ⟨rest, rfl, by rw [step_cons h]; rfl⟩))

/-- A run of one more step, where the first answers a next state. -/
theorem core_run_succ {M : Host.Core} {s t : M.State} (h : M.step s = .next t) (k : Nat) : M.run (k + 1) s = M.run k t := by
  simp only [Host.Core.run, h]

theorem run_succ {s t : State} (h : step s = .next t) (k : Nat) : Sys2Proof.core.run (k + 1) s = Sys2Proof.core.run k t :=
  core_run_succ (M := Sys2Proof.core) h k

end Sys2Proof.Machine
end

