-- ==== Sys2Proof/Laws/HostProgram.lean ====
section
/-! SUPPORT. What a transaction, a host program and a run of one can do, said once. -/

namespace Sys2Proof.Machine

/-! ### What is still to arrive has no bearing on what takes effect -/

/-- The next state of an outcome with another agenda. -/
def withAgendaOf (rest : List Event) : Host.Outcome State Fault Refusal → Host.Outcome State Fault Refusal
  | .next t => .next (t.withAgenda rest)
  | .fault f => .fault f
  | .refused r => .refused r

theorem writeReg_withAgenda (s : State) (rest : List Event) (r : Reg) (w : Word) :
    (s.withAgenda rest).writeReg r w = (s.writeReg r w).map (fun t => t.withAgenda rest) := by
  cases r <;> simp only [State.writeReg, apply_ite (Option.map (fun t : State => t.withAgenda rest))] <;> rfl

theorem hostAccess_withAgenda (s : State) (rest : List Event) (a : Access) :
    (s.withAgenda rest).hostAccess a = (s.hostAccess a).withAgenda rest := by
  cases a with
  | read offset =>
    simp only [State.hostAccess, apply_ite (fun t : State => t.withAgenda rest)]
    cases target offset <;> simp only [State.readTarget, apply_ite (fun t : State => t.withAgenda rest)]
    case reg r => cases r <;> rfl
    all_goals rfl
  | write offset w strobes =>
    simp only [State.hostAccess, apply_ite (fun t : State => t.withAgenda rest)]
    cases target offset with
    | reg r =>
      simp only [State.writeTarget, writeReg_withAgenda]
      cases s.writeReg r w <;> rfl
    | inWord i => rfl
    | outWord i => rfl
    | unmapped => rfl

theorem exec_withAgenda (i : Instr) (s : State) (rest : List Event) :
    exec i (s.withAgenda rest) = withAgendaOf rest (exec i s) := by
  cases i with
  | intToBits w =>
    simp only [exec_intToBits, execIntToBits, State.withAgenda_argValue]
    cases intToBits s.argValue.toNat w <;> rfl
  | _ =>
    simp only [exec, execConfigure, execDecodeBytes, execDecodeBits, execBytesToBits, execBitsToBytes, execBitsToInt,
      apply_ite (withAgendaOf rest)]
    rfl

theorem engineTurn_withAgenda (s : State) (rest : List Event) :
    engineTurn (s.withAgenda rest) = withAgendaOf rest (engineTurn s) := by
  cases hb : s.busy with
  | false => rw [engineTurn_idle (by simpa using hb), engineTurn_idle hb]; rfl
  | true =>
    rw [engineTurn_busy (by simpa using hb), engineTurn_busy hb]
    cases hd : decodeCmd s.cmd with
    | ok i =>
      rw [completion_of_decode hd, completion_of_decode (i := i) (by simpa using hd)]
      exact exec_withAgenda i s rest
    | error e =>
      rw [completion_of_illegal hd, completion_of_illegal (e := e) (by simpa using hd)]
      rfl

/-! ### Transactions -/

/-- A transaction reaches the block exactly where its address, BASE plus its offset, lies in the window (20_memory
R60). -/
theorem Transaction.access_read_window (offset : Nat) :
    (Transaction.read offset).access = (windowOffset (Config.base + offset)).map Access.read := by
  simp only [Transaction.access, windowOffset, Nat.le_add_right, Nat.add_sub_cancel_left, true_and]
  split_ifs <;> rfl

theorem Transaction.access_write_window (offset : Nat) (w : Word) :
    (Transaction.write offset w).access =
      (windowOffset (Config.base + offset)).map (fun o => Access.write o w (some 0xF)) := by
  simp only [Transaction.access, windowOffset, Nat.le_add_right, Nat.add_sub_cancel_left, true_and]
  split_ifs <;> rfl

theorem Transaction.perform_withAgenda (t : Transaction) (s : State) (rest : List Event) :
    t.perform (s.withAgenda rest) = (t.perform s).withAgenda rest := by
  unfold Transaction.perform
  cases t.access with
  | some a => exact hostAccess_withAgenda s rest a
  | none => rfl

/-- A poll of STATUS answers STATUS and changes nothing else, and it ends a WAIT exactly where BUSY = 0. -/
theorem HostOp.ended_pollIdle (s : State) :
    HostOp.pollIdle.ended (HostOp.pollIdle.transaction.perform s) = !s.busy := by
  have h : HostOp.pollIdle.transaction.perform s = s.respond (.readOk s.statusWord) := by
    simp [HostOp.transaction, readLoc, Loc.offset, Reg.offset, Transaction.perform, Transaction.access,
      State.hostAccess, aligned, target, regAt, State.readTarget, Reg.isResult, State.readReg]
  rw [h]
  simp only [HostOp.ended, State.readIdle, State.respond, State.statusWord]
  rw [BitVec.getLsbD_append]
  cases s.busy <;> simp

/-! ### Programs -/

theorem programOps_cons {st : Stmt} {rest : List Stmt} {ops : List HostOp} (h : programOps (st :: rest) = some ops) :
    st.wellFormed = true ∧ ∃ more, programOps rest = some more ∧ ops = st.primitives ++ more := by
  simp only [programOps, Stmt.ops] at h
  split_ifs at h with hw
  · cases hm : programOps rest with
    | none => simp [hm] at h
    | some more => simp only [hm, Option.some.injEq] at h; exact ⟨hw, more, rfl, h.symm⟩

theorem programTransactions_cons {st : Stmt} {polls : Nat} {rest : List (Stmt × Nat)} {ts : List Transaction}
    (hw : st.wellFormed = true) (h : programTransactions rest = some ts) :
    programTransactions ((st, polls) :: rest) = some (st.primitives.flatMap (HostOp.transactions polls) ++ ts) := by
  simp [programTransactions, Stmt.ops, hw, h]

/-! ### Runs -/

@[simp] theorem hostRun_nil (ops : List HostOp) (s : State) :
    hostRun [] ops s = { trace := [], events := [], left := ops, state := s } := rfl

@[simp] theorem hostRun_idle (turns : List Turn) (s : State) : hostRun (.host :: turns) [] s = hostRun turns [] s := rfl

theorem hostRun_engine {s t : State} (h : engineTurn s = .next t) (turns : List Turn) (ops : List HostOp) :
    hostRun (.engine :: turns) ops s =
      { hostRun turns ops t with events := .engine :: (hostRun turns ops t).events } := by
  simp [hostRun, h]

end Sys2Proof.Machine
end

