-- ==== Sys2Proof/Laws/PerInstr.lean ====
section
/-! SUPPORT. Facts about every command as it is written, one lemma per constructor (LAWS.json, per_instruction). -/

namespace Sys2Proof.Laws

/-- The OP field of a command's word is its opcode, and its reserved fields are 0 (30_encoding R90, R91, R94). -/
def EncodedFields.Statement (i : Instr) : Prop :=
  opField (encode i) = i.opcode ∧ reservedLowField (encode i) = 0 ∧ reservedHighField (encode i) = 0

theorem EncodedFields.configure : EncodedFields.Statement .configure := by
  unfold EncodedFields.Statement; decide

theorem EncodedFields.decodeBytes : EncodedFields.Statement .decodeBytes := by
  unfold EncodedFields.Statement; decide

theorem EncodedFields.decodeBits : EncodedFields.Statement .decodeBits := by
  unfold EncodedFields.Statement; decide

theorem EncodedFields.bytesToBits : EncodedFields.Statement .bytesToBits := by
  unfold EncodedFields.Statement; decide

theorem EncodedFields.bitsToBytes : EncodedFields.Statement .bitsToBytes := by
  unfold EncodedFields.Statement; decide

theorem EncodedFields.intToBits (width : Nat) : EncodedFields.Statement (.intToBits width) := by
  have h : ∀ v : BitVec 6, opField (assembleWord 6 false false v) = 6 ∧
      reservedLowField (assembleWord 6 false false v) = 0 ∧ reservedHighField (assembleWord 6 false false v) = 0 := by
    decide
  exact h (BitVec.ofNat 6 width)

theorem EncodedFields.bitsToInt (inv rev : Bool) : EncodedFields.Statement (.bitsToInt inv rev) := by
  have h : ∀ i r : Bool, EncodedFields.Statement (.bitsToInt i r) := by
    unfold EncodedFields.Statement; decide
  exact h inv rev

end Sys2Proof.Laws
end

