-- ==== Sys2Proof/Tests/Slice0.lean ====
section
/-! SUPPORT. The model's own tests. Expected results are the vectors of spec/95_test_vectors.md, named in each comment
(S, B, T, I, N, L, K, Q, P-, E, A, P), or words written from 30_encoding R90, R98. The theorems `witness_<Name>` show
states and operands that meet the hypotheses of `Obligations.<Name>`, clause by clause. -/

namespace Sys2Proof.Tests

open Sys2Proof.Machine

/-! ### Helpers -/

/-- The state after one command word has run from `s`. -/
def run (s : State) (w : Nat) : Option State := nextOf (step (s.withFetchWord 32 w))

/-- `s` with bytes in IN_MEM and both length operands. -/
def withInput (s : State) (bs : List Byte) (len nbits : Nat) : State :=
  { s with inMem := Memory.holding 0 bs, inLen := BitVec.ofNat 32 len, inNbits := BitVec.ofNat 32 nbits }

/-- Committed patterns. -/
def withPatterns (s : State) (onePat : Word) (oneLen : BitVec 6) (zeroPat : Word) (zeroLen : BitVec 6) : State :=
  { s with onePat := onePat, oneLen := oneLen, zeroPat := zeroPat, zeroLen := zeroLen, cfgValid := true }

/-- The state after a successful CONFIGURE with oneSeq = [1,0] and zeroSeq = [0,1]. -/
def configured : State := { withPatterns State.reset 2 2 1 2 with cmd := 1, done := true }

/-- STATUS, OUT_NBITS and the output bytes. -/
def shown (o : Option State) : Option (Nat × Nat × List Byte) :=
  o.map fun t => (t.statusWord.toNat, t.outNbits.toNat, t.outMem.readBytes t.outLen.toNat)

/-- STATUS and RESULT. -/
def shownResult (o : Option State) : Option (Nat × Nat) := o.map fun t => (t.statusWord.toNat, t.result.toNat)

/-! ### WellFormed: a term each check refuses -/

theorem test_width_64_is_ill_formed : (Instr.intToBits 64).wellFormed = false := by decide
theorem test_width_63_is_well_formed : (Instr.intToBits 63).wellFormed = true := by decide

/-! ### Command words written out from 30_encoding R90, R98 -/

theorem test_decode_configure :
    decodeTableWord 32 0b00000000000000000000000000000001 = some .configure := by decide
theorem test_decode_decodeBytes :
    decodeTableWord 32 0b00000000000000000000000000000010 = some .decodeBytes := by decide
theorem test_decode_decodeBits :
    decodeTableWord 32 0b00000000000000000000000000000011 = some .decodeBits := by decide
theorem test_decode_bytesToBits :
    decodeTableWord 32 0b00000000000000000000000000000100 = some .bytesToBits := by decide
theorem test_decode_bitsToBytes :
    decodeTableWord 32 0b00000000000000000000000000000101 = some .bitsToBytes := by decide
theorem test_decode_intToBits :
    decodeTableWord 32 0b00000000000000000010100000000110 = some (.intToBits 40) := by decide
theorem test_decode_bitsToInt_inv :
    decodeTableWord 32 0b00000000000000000000000000010111 = some (.bitsToInt true false) := by decide
theorem test_decode_bitsToInt_rev :
    decodeTableWord 32 0b00000000000000000000000000100111 = some (.bitsToInt false true) := by decide

/-- The same words from the commands (I3, I10, N1). -/
theorem test_encode :
    encode .configure = 0x1 ∧ encode .decodeBytes = 0x2 ∧ encode .decodeBits = 0x3 ∧ encode .bytesToBits = 0x4 ∧
    encode .bitsToBytes = 0x5 ∧ encode (.intToBits 3) = 0x306 ∧ encode (.intToBits 63) = 0x3F06 ∧
    encode (.bitsToInt false false) = 0x7 ∧ encode (.bitsToInt true true) = 0x37 := by decide

/-- E1 to E8: illegal words, STATUS 0x306. -/
theorem test_illegal_words :
    ∀ w ∈ [0x00000000, 0x00000008, 0x0000000F, 0x00000107, 0x00004006, 0x00000046, 0x00000080, 0x00000016],
      decodeTableWord 32 w = none ∧ (run State.reset w).map (fun t => t.statusWord) = some 0x306 := by decide

/-! ### The commands, one step each -/

/-- S8. -/
theorem test_bytesToBits_S8 : shown (run (withInput State.reset [0x99] 1 0) 0x4) = some (0x02, 8, [0x99]) := by decide
/-- B1. -/
theorem test_bytesToBits_B1 :
    shown (run (withInput State.reset [0x00, 0xFF, 0x01] 3 0) 0x4) = some (0x02, 24, [0x00, 0xFF, 0x01]) := by decide
/-- T2: input bits past IN_NBITS are ignored, output pad bits are 0, PAD is set. -/
theorem test_bitsToBytes_T2 : shown (run (withInput State.reset [0xFF] 0 4) 0x5) = some (0x0A, 4, [0xF0]) := by decide
/-- T5. -/
theorem test_bitsToBytes_T5 :
    shown (run (withInput State.reset [0x5A, 0xFF] 0 9) 0x5) = some (0x0A, 9, [0x5A, 0x80]) := by decide
/-- I10. -/
theorem test_intToBits_I10 :
    shown (run { State.reset with argValue := 3 } 0x3F06) = some (0x02, 63, [0, 0, 0, 0, 0, 0, 0, 6]) := by decide
/-- I6: the value does not fit, the output lengths stay. -/
theorem test_intToBits_I6 : shown (run { State.reset with argValue := 256 } 0x806) = some (0x206, 0, []) := by decide
/-- N3, the inv rev column. -/
theorem test_bitsToInt_N3 :
    shownResult (run (withInput State.reset [0x12, 0x34, 0x56, 0x78] 0 32) 0x37) = some (0x02, 0xE195D3B7) := by decide
/-- N2, the rev and inv columns. -/
theorem test_bitsToInt_N2 :
    shownResult (run (withInput State.reset [0xDF] 0 3) 0x27) = some (0x02, 0x3) ∧
    shownResult (run (withInput State.reset [0xDF] 0 3) 0x17) = some (0x02, 0x1) := by decide
/-- K1 and K3. -/
theorem test_configure_K1_K3 :
    (run { State.reset with zeroLen := 2 } 0x1).map (fun t => t.statusWord) = some 0x106 ∧
    (run { State.reset with oneLen := 32, zeroLen := 1 } 0x1).map (fun t => t.statusWord) = some 0x12 := by decide
/-- K2 and K4. -/
theorem test_configure_K2_K4 :
    (run { State.reset with oneLen := 33, zeroLen := 2 } 0x1).map (fun t => t.statusWord) = some 0x106 ∧
    (run configured 0x1).map (fun t => t.statusWord) = some 0x616 := by decide
/-- L4: patterns of unequal length; PAD stays 0. -/
theorem test_decodeBits_L4 :
    shown (run (withInput (withPatterns State.reset 6 3 2 2) [0xD5, 0x80] 0 10) 0x3) = some (0x12, 4, [0x90]) := by decide
/-- L5: no backtracking. -/
theorem test_decodeBits_L5 :
    shown (run (withInput (withPatterns State.reset 1 1 2 2) [0xA0] 0 4) 0x3) = some (0x12, 1, [0x80]) := by decide
/-- P-3: a desync is no error. -/
theorem test_decodeBytes_P3 : shown (run (withInput configured [0x9F] 1 0) 0x2) = some (0x1A, 2, [0x80]) := by decide
/-- P-4. -/
theorem test_decodeBytes_P4 : shown (run (withInput configured [0x66, 0x5A] 2 0) 0x2) = some (0x12, 8, [0x53]) := by decide
/-- Q1 and Q2: NOT_CONFIGURED outranks ARGUMENT_RANGE. -/
theorem test_not_configured_Q1_Q2 :
    (run State.reset 0x3).map (fun t => t.statusWord) = some 0x506 ∧
    (run { State.reset with inLen := 65 } 0x2).map (fun t => t.statusWord) = some 0x506 := by decide

/-! ### The bus -/

/-- A1, A2, A10: misaligned and unmapped reads. -/
theorem test_refused_reads_A1_A2_A10 :
    State.reset.hostAccess (.read 0x002) = { State.reset with resp := some (.readError 0) } ∧
    State.reset.hostAccess (.read 0x038) = { State.reset with resp := some (.readError 0) } ∧
    State.reset.hostAccess (.read 0x30000) = { State.reset with resp := some (.readError 0) } := by decide
/-- A3, A4. -/
theorem test_refused_writes_A3_A4 :
    State.reset.hostAccess (.write 0x20000 1 (some 0xF)) = { State.reset with resp := some .writeError } ∧
    State.reset.hostAccess (.write 0x004 0 (some 0xF)) = { State.reset with resp := some .writeError } := by decide
/-- A6. -/
theorem test_pat_max_A6 : (State.reset.hostAccess (.read 0x034)).resp = some (.readOk 32) := by decide
/-- A7. -/
theorem test_word_write_A7 :
    (State.reset.hostAccess (.write 0x10000 0x99AABBCC (some 0xF))).inMem.readBytes 4 = [0x99, 0xAA, 0xBB, 0xCC] := by decide
/-- A8: STATUS = 0x01 while in flight, and the second write of CMD is refused. -/
theorem test_busy_A8 :
    (State.reset.hostAccess (.write 0x000 2 (some 0xF))).statusWord = 0x01 ∧
    ((State.reset.hostAccess (.write 0x000 2 (some 0xF))).hostAccess (.write 0x000 1 (some 0xF))).resp =
      some .writeError := by decide
/-- K5: a locked pattern register refuses the write. -/
theorem test_locked_write_K5 :
    configured.hostAccess (.write 0x024 5 (some 0xF)) = { configured with resp := some .writeError } := by decide
/-- A narrow write is refused (20_memory R64). -/
theorem test_narrow_write :
    State.reset.hostAccess (.write 0x008 5 (some 0x1)) = { State.reset with resp := some .writeError } := by decide

/-! ### Host programs: the transactions of 95_test_vectors section 6 -/

/-- LOADPAT of P2. -/
theorem test_loadPat_P2 :
    programTransactions [(.loadPat [true, true, false] [true, false], 0)] =
      some [.write 0x020 0x6, .write 0x024 0x3, .write 0x028 0x2, .write 0x02C 0x2] := by decide
/-- LOADBITS of P2. -/
theorem test_loadBits_P2 :
    programTransactions [(.loadBits [true, true, false, true, false, true, false, true, true, false], 0)] =
      some [.write 0x10000 0xD5800000, .write 0x00C 0x0000000A] := by decide
/-- RUN with one BUSY poll and then a WAIT of one read: each WAIT has its own number of polls (30_encoding R111). -/
theorem test_polls_are_independent :
    programTransactions [(.run .configure, 1), (.wait, 0)] =
      some [.write 0x000 0x1, .read 0x004, .read 0x004, .read 0x004] ∧
    (hostRun [.host, .host, .engine, .host, .host] [.send (.write 0x000 0x1), .pollIdle, .pollIdle] State.reset).trace =
      [.write 0x000 0x1, .read 0x004, .read 0x004, .read 0x004] ∧
    (hostRun [.host, .host, .engine, .host, .host] [.send (.write 0x000 0x1), .pollIdle, .pollIdle] State.reset).left =
      [] := by decide
/-- No offset wraps: `OUT[0x8000]` and `IN[0xC000]` lie past the window and issue nothing (30_encoding R110, 20_memory
R60). -/
theorem test_no_offset_wraps :
    (writeLoc (.outWord 0x8000) 1).access = none ∧ (writeLoc (.inWord 0xC000) 1).events = [] ∧
    (writeLoc (.inWord 1) 1).access = some (.write 0x10004 1 (some 0xF)) := by decide
/-- Widths past 63 and patterns of 0 or 33 bits are no statements (30_encoding R110). -/
theorem test_ill_formed_statements :
    (Stmt.run (.intToBits 64)).ops = none ∧ (Stmt.issue (.intToBits 64)).ops = none ∧
    (Stmt.loadPat [] [true]).ops = none ∧ (Stmt.loadPat [true] (List.replicate 33 true)).ops = none := by decide

/-! ### Witnesses: the command word and the step -/

theorem witness_DecodeOfEncodeIsTheCommand : (Instr.intToBits 63).wellFormed = true := by decide

/-- The decode error of a word, if it is illegal. -/
theorem illegal_of_decode {w : Word} {e : DecodeError} (h : decodeCmd w = .error e) : ∀ i, decodeCmd w ≠ .ok i := by
  intro i hi
  rw [h] at hi
  cases hi

theorem witness_IllegalWordsCompleteWithIllegalCommand :
    (∀ i, decodeCmd 0#32 ≠ .ok i) ∧ (State.reset.issue 0).busy = true ∧ (State.reset.issue 0).cmd = 0 :=
  ⟨illegal_of_decode (e := .reservedOpcode) (by decide), by decide, by decide⟩

theorem witness_StepRunsTheDecodedCommand :
    (configured.issue 0x3F06).busy = true ∧ decodeCmd (configured.issue 0x3F06).cmd = .ok (.intToBits 63) ∧
    (configured.issue 0x3F06).agenda = [] ∧
    ((configured.issue 0x3F06).withAgenda [.engine, .reset]).agenda = .engine :: [.reset] := by decide

theorem witness_IdleEngineChangesNothing :
    configured.busy = false ∧ configured.agenda = [] ∧ (configured.withAgenda [.engine]).agenda = .engine :: [] := by
  decide

theorem witness_StepTakesTheOldestArrival :
    (configured.withAgenda [.access (.read 0x004)]).agenda = .access (.read 0x004) :: [] ∧
    ((configured.issue 1).withAgenda [.reset]).agenda = .reset :: [] := by decide

theorem witness_WriteOfCmdIssuesTheCommand :
    ((none : Option (BitVec 4)) = none ∨ (none : Option (BitVec 4)) = some 0xF#4) ∧
    (some 0xF#4 = none ∨ some 0xF#4 = some 0xF#4) ∧
    configured.busy = false ∧ (∀ i, decodeCmd 0x8#32 ≠ .ok i) ∧ (configured.issue 0).busy = true :=
  ⟨by decide, by decide, by decide, illegal_of_decode (e := .reservedOpcode) (by decide), by decide⟩

theorem witness_ResetSetsEveryRegister :
    ((configured.issue 2).withAgenda [.reset, .engine]).agenda = .reset :: [.engine] := by decide

/-! ### Witnesses: invariants and whole-machine rules -/

/-- The configured state meets the invariant. -/
theorem configured_inv : configured.Inv where
  error := by decide
  status := by decide
  output := ⟨by decide, Nat.zero_le _⟩
  config := by decide
  buffers := ⟨Memory.empty_wf 0, Memory.empty_within 0 _, Memory.empty_wf 1, Memory.empty_within 1 _⟩

/-- So does the same state with a command in flight and events on the agenda. -/
theorem issued_inv (w : Word) (rest : List Event) : ((configured.issue w).withAgenda rest).Inv where
  error := configured_inv.error
  status := by refine ⟨?_, ?_, ?_, ?_⟩ <;> simp [State.issue, State.withAgenda]
  output := configured_inv.output
  config := configured_inv.config
  buffers := ⟨Memory.empty_wf 0, Memory.empty_within 0 _, Memory.empty_wf 1, Memory.empty_within 1 _⟩

theorem witness_StepKeepsInvariant : configured.Inv ∧ step configured = .next configured :=
  ⟨configured_inv, step_nil (by decide) |>.trans (engineTurn_idle (by decide))⟩

theorem witness_NoGoodStateStops : ((configured.issue 3).withAgenda [.engine]).Inv := issued_inv 3 [.engine]

theorem witness_IssuedCommandIsCompleted :
    ((configured.issue 3).withAgenda [.access (.read 0x004)]).Inv ∧
    ((configured.issue 3).withAgenda [.access (.read 0x004)]).busy = true ∧
    Event.reset ∉ ((configured.issue 3).withAgenda [.access (.read 0x004)]).agenda :=
  ⟨issued_inv 3 _, by decide, by decide⟩

theorem witness_NothingIsReportedBeforeTheFirstIssue :
    State.untouchedBeforeFirstIssue (State.reset.withAgenda [.access (.write 0x008 7 (some 0xF))]) ∧
    step (State.reset.withAgenda [.access (.write 0x008 7 (some 0xF))]) =
      .next { State.reset with inLen := 7, resp := some .writeOk } ∧
    ((configured.issue 0).busy = true ∧ (∀ rest, (configured.issue 0).agenda ≠ .reset :: rest) ∧
      ∃ t, step (configured.issue 0) = .next t) ∧
    (configured.done = true ∧ (∀ rest, configured.agenda ≠ .reset :: rest) ∧ step configured = .next configured) :=
  ⟨fun _ _ => by decide, rfl, ⟨by decide, by rintro _ ⟨⟩, _, rfl⟩, by decide, by rintro _ ⟨⟩, rfl⟩

theorem witness_CfgValidLocksThePatternsUntilReset :
    ((∃ t, step (({ configured with cfgValid := false } : State).issue 1) = .next t ∧ t.cfgValid = true) ∧
      (({ configured with cfgValid := false } : State).issue 1).cfgValid = false) ∧
    (step configured = .next configured ∧ configured.cfgValid = true ∧ ∀ rest, configured.agenda ≠ .reset :: rest) :=
  ⟨⟨⟨_, rfl, by decide⟩, by decide⟩, rfl, by decide, fun _ h => by cases h⟩

theorem witness_CommittedPatternsAreImmutable :
    configured.cfgValid = true ∧ Event.reset ∉ (configured.withAgenda [.access (.write 0x020 7 (some 0xF))]).agenda ∧
    ∃ t, Sys2Proof.core.run 2 (configured.withAgenda [.access (.write 0x020 7 (some 0xF))]) = .next t :=
  ⟨by decide, by decide, _, rfl⟩

theorem witness_NothingChangesWhileACommandStaysInFlight :
    ∃ t, step ((configured.issue 3).withAgenda [.access (.read 0x014)]) = .next t ∧
      ((configured.issue 3).withAgenda [.access (.read 0x014)]).busy = true ∧ t.busy = true :=
  ⟨_, rfl, by decide, rfl⟩

theorem witness_EngineNeverChangesOperands : ∃ t, engineTurn (configured.issue 3) = .next t := ⟨_, rfl⟩

theorem witness_ErrorsArePrecise :
    (State.reset.issue 3).busy = true ∧
    ∃ t, engineTurn (State.reset.issue 3) = .next t ∧ t.err = true := ⟨by decide, _, rfl, by decide⟩

/-- Both outcomes, and a success of each of the four kinds of completion. -/
theorem witness_StateWrittenByEachCompletion :
    ((configured.issue 0).busy = true ∧ ∀ i, decodeCmd (configured.issue 0).cmd ≠ .ok i) ∧
    (∃ t, exec .decodeBits State.reset = .next t ∧ t.err = true) ∧
    (∃ t, exec (.intToBits 63) State.reset = .next t ∧ t.err = false) ∧
    (∃ t, exec .bitsToBytes (withInput State.reset [0xFF] 0 4) = .next t ∧ t.err = false ∧ t.pad = true) ∧
    (∃ t, exec (.bitsToInt true true) State.reset = .next t ∧ t.err = false) ∧
    (∃ t, exec .configure { configured with cfgValid := false } = .next t ∧ t.err = false) :=
  ⟨⟨by decide, illegal_of_decode (e := .reservedOpcode) (by decide)⟩, ⟨_, rfl, by decide⟩, ⟨_, rfl, by decide⟩,
   ⟨_, rfl, by decide⟩, ⟨_, rfl, by decide⟩, ⟨_, rfl, by decide⟩⟩

theorem witness_FirstErrorIsReported :
    ((configured.issue 0).busy = true ∧ (configured.issue 0).configConsistent ∧
      ∀ i, decodeCmd (configured.issue 0).cmd ≠ .ok i) ∧
    ((configured.issue 1).busy = true ∧ (configured.issue 1).configConsistent ∧
      decodeCmd (configured.issue 1).cmd = .ok .configure ∧ (configured.issue 1).firstError .configure = some 0x6) ∧
    ((configured.issue 3).busy = true ∧ (configured.issue 3).configConsistent ∧
      decodeCmd (configured.issue 3).cmd = .ok .decodeBits ∧ (configured.issue 3).firstError .decodeBits = none) :=
  ⟨⟨by decide, fun _ => by decide, illegal_of_decode (e := .reservedOpcode) (by decide)⟩,
   ⟨by decide, fun _ => by decide, by decide, by decide⟩, ⟨by decide, fun _ => by decide, by decide, by decide⟩⟩

/-- A second state with the same operands and other results. -/
def otherResults (s : State) : State := { s with result := 5, outLen := 1, outNbits := 3, agenda := [.reset], draws := 9 }

theorem witness_CommandsAreSelfContained :
    (withInput configured [0x99] 1 8).SameOperands
      { otherResults (withInput configured [0x99] 1 8) with
        agenda := (withInput configured [0x99] 1 8).agenda, resp := (withInput configured [0x99] 1 8).resp } ∧
    (otherResults (withInput configured [0x99] 1 8)).cfgValid = (withInput configured [0x99] 1 8).cfgValid ∧
    (∃ t, exec .decodeBytes (withInput configured [0x99] 1 8) = .next t ∧ t.err = false) ∧
    ∃ t', exec .decodeBytes (otherResults (withInput configured [0x99] 1 8)) = .next t' :=
  ⟨⟨rfl, rfl, rfl, rfl, rfl, rfl, rfl, rfl, fun _ => rfl, rfl, rfl⟩, rfl, ⟨_, rfl, rfl⟩, _, rfl⟩

/-- The second state holds one more input byte, which the command does not read. -/
theorem witness_DecodeBytesDependsOnItsInputAlone :
    (withInput configured [0x99] 1 8).cfgValid = true ∧ (withInput configured [0x99, 0xFF] 1 3).cfgValid = true ∧
    (withInput configured [0x99] 1 8).configConsistent ∧ (withInput configured [0x99, 0xFF] 1 3).configConsistent ∧
    (withInput configured [0x99] 1 8).inLen.toNat ≤ Config.bufBytes ∧
    (withInput configured [0x99, 0xFF] 1 3).inLen = (withInput configured [0x99] 1 8).inLen ∧
    (∀ j, j < (withInput configured [0x99] 1 8).inLen.toNat →
      (withInput configured [0x99, 0xFF] 1 3).inMem.read j = (withInput configured [0x99] 1 8).inMem.read j) ∧
    (withInput configured [0x99, 0xFF] 1 3).oneSeq = (withInput configured [0x99] 1 8).oneSeq ∧
    (withInput configured [0x99, 0xFF] 1 3).zeroSeq = (withInput configured [0x99] 1 8).zeroSeq := by
  refine ⟨by decide, by decide, fun _ => by decide, fun _ => by decide, by decide, by decide, ?_, by decide, by decide⟩
  intro j hj
  have h : j < 1 := hj
  obtain rfl : j = 0 := by omega
  decide

/-! ### Witnesses: the bus -/

theorem witness_RegistersReadAtTheirOffsets : State.reset.busy = false := by decide

theorem witness_RegisterWritesStoreTheirSignificantBits :
    ((none : Option (BitVec 4)) = none ∨ (none : Option (BitVec 4)) = some 0xF#4) ∧
    State.reset.busy = false ∧ State.reset.cfgValid = false := by decide

/-- A refused access by each ground that needs no capacity, and at the first offset past OUT_MEM. -/
theorem witness_BusErrorsAreExactlyTheRefusedAccesses :
    (State.reset.hostAccess (.read 0x3FFFF)).resp = some (.readError 0) ∧
    (State.reset.hostAccess (.read 0x30000)).resp = some (.readError 0) ∧
    (State.reset.hostAccess (.read 0x038)).resp = some (.readError 0) ∧
    (State.reset.hostAccess (.read 0x034)).resp = some (.readOk 32) ∧
    (State.reset.hostAccess (.write 0x008 7 (some 0x7))).resp = some .writeError ∧
    (configured.hostAccess (.write 0x02C 7 none)).resp = some .writeError ∧
    ((configured.issue 1).hostAccess (.write 0x000 7 none)).resp = some .writeError ∧
    unmappedOffset (0x20000 + Config.bufBytes) := by
  refine ⟨by decide, by decide, by decide, by decide, by decide, by decide, by decide, ?_⟩
  have := bufBytes_legal
  unfold unmappedOffset
  omega

theorem witness_WritesWhileBusyAreRefused : (configured.issue 1).busy = true := by decide

/-- RESULT and OUT_NBITS, and the first and the last word of OUT_MEM and of IN_MEM. -/
theorem witness_ReadsWhileBusy :
    (configured.issue 1).busy = true ∧ (0x014#18).toNat ∈ [0x014, 0x018, 0x01C] ∧
    (0x01C#18).toNat ∈ [0x014, 0x018, 0x01C] ∧
    (∀ o ∈ [0, Config.bufBytes - 4], (BitVec.ofNat 18 (0x20000 + o)).toNat % 4 = 0 ∧
      0x20000 ≤ (BitVec.ofNat 18 (0x20000 + o)).toNat ∧
      (BitVec.ofNat 18 (0x20000 + o)).toNat < 0x20000 + Config.bufBytes) ∧
    Reg.status ∉ [Reg.result, Reg.outLen, Reg.outNbits] ∧
    4 * 0 < Config.bufBytes ∧ 4 * (Config.bufBytes / 4 - 1) < Config.bufBytes := by
  have := bufBytes_legal
  refine ⟨by decide, by decide, by decide, ?_, by decide, by omega, by omega⟩
  intro o ho
  simp only [List.mem_cons, List.not_mem_nil, or_false] at ho
  simp only [BitVec.toNat_ofNat]
  rcases ho with rfl | rfl <;> omega

/-- The first and the last word of a buffer. -/
theorem witness_BufferWordsAreBigEndian :
    4 * 0 < Config.bufBytes ∧ 4 * (Config.bufBytes / 4 - 1) < Config.bufBytes ∧ configured.busy = false ∧
    ((none : Option (BitVec 4)) = none ∨ (none : Option (BitVec 4)) = some 0xF#4) := by
  have := bufBytes_legal
  exact ⟨by omega, by omega, by decide, by decide⟩

theorem witness_AccessesAreIdempotentButForCmd :
    (0x008#18 : BitVec 18) ≠ 0x000#18 ∧ configured.busy = false ∧
    ((none : Option (BitVec 4)) = none ∨ (none : Option (BitVec 4)) = some 0xF#4) := by decide

/-- The first and the last byte offset of OUT_MEM, the first aligned. -/
theorem witness_OutMemIsReadOnlyToTheHost :
    configured.busy = false ∧ (0x20000#18).toNat % 4 = 0 ∧ ∀ o ∈ [0, Config.bufBytes - 1], 0x20000 ≤ (BitVec.ofNat 18 (0x20000 + o)).toNat ∧
      (BitVec.ofNat 18 (0x20000 + o)).toNat < 0x20000 + Config.bufBytes := by
  have := bufBytes_legal
  refine ⟨by decide, by decide, ?_⟩
  intro o ho
  simp only [List.mem_cons, List.not_mem_nil, or_false] at ho
  simp only [BitVec.toNat_ofNat]
  rcases ho with rfl | rfl <;> omega

theorem witness_StatusReservedBitsReadZero : ((5 ≤ 5 ∧ 5 ≤ 7) ∨ 12 ≤ 5) ∧ ((5 ≤ 31 ∧ 31 ≤ 7) ∨ 12 ≤ 31) := by decide

/-! ### Witnesses: host programs -/

/-- RUN CONFIGURE and a WAIT, the engine's turn after one BUSY poll. -/
theorem witness_HostRunsExpandTheProgram :
    programOps [.run .configure, .wait] = some [.send (.write 0x000 0x1), .pollIdle, .pollIdle] ∧
    (hostRun [.host, .host, .engine, .host, .host] [.send (.write 0x000 0x1), .pollIdle, .pollIdle] configured).left =
      [] := by decide

theorem witness_HostRunsAreAgendas : configured.Inv := configured_inv

/-! ### Witnesses: the pure functions -/

theorem witness_BytesToBitsByPosition : 1 < ([0x99, 0x01] : List Byte).length ∧ 7 < 8 := by decide

theorem witness_IntToBitsFitsOrFails : 2 ^ 8 ≤ 256 ∧ 255 < 2 ^ 8 ∧ 7 < 8 ∧ 1 ≤ 1 := by decide

theorem witness_BitsToBytesByPosition : 0 < (bitsToBytes [true, true, true, true]).length ∧ 7 < 8 := by decide

theorem witness_CodecLaws :
    intToBits 5 3 = .ok [true, false, true] ∧ (byteBits 0x5A).length % 8 = 0 := by constructor <;> rfl

theorem witness_PackedSequencesAreMsbFirst :
    9 < 10 ∧ ∀ k, k < 4 → (Memory.holding 3 [0xF8]).bitAt k = (Memory.holding 0 [0xFF]).bitAt k := by decide

theorem witness_PatternsAreTheLowBitsOfTheirRegister :
    (State.reset.cfgValid = false ∧ State.reset.oneLen.toNat < 1) ∧
    (1 ≤ (1#6).toNat ∧ (1#6).toNat ≤ 32 ∧ 0 < (1#6).toNat) ∧
    (1 ≤ (32#6).toNat ∧ (32#6).toNat ≤ 32 ∧ 31 < (32#6).toNat) := by decide

theorem witness_LineDecodeIsTheGreedyScan : ([true, false] : BitSeq) ≠ [] ∧ ([false, true] : BitSeq) ≠ [] := by decide

/-- S5 for both clauses. -/
theorem witness_OneWinsEveryTie :
    ([true] : BitSeq) ≠ [] ∧ ([true] : BitSeq).isPrefixOf [true, true, true] = true ∧ ([true] : BitSeq) = [true] := by
  decide

theorem witness_LineDecodeLengthBound : ([true] : BitSeq) ≠ [] ∧ ([true, false] : BitSeq) ≠ [] := by decide

theorem witness_LineDecodeParsesAPrefix : ([true, true, false] : BitSeq) ≠ [] ∧ ([true, false] : BitSeq) ≠ [] := by decide

/-! ### Witnesses: the commands, each clause at its boundary -/

/-- The capacity as a register value. -/
theorem toNat_capacity (k : Nat) (h : k ≤ 8 * Config.bufBytes + 1) : (BitVec.ofNat 32 k).toNat = k := by
  have := bufBytes_legal
  simp only [BitVec.toNat_ofNat]
  omega

theorem witness_ConfigureCommitsLegalPatterns :
    configured.cfgValid = true ∧
    (let s : State := { State.reset with oneLen := 33, zeroLen := 2 }
     s.cfgValid = false ∧ ¬((1 ≤ s.oneLen.toNat ∧ s.oneLen.toNat ≤ 32) ∧ 1 ≤ s.zeroLen.toNat ∧ s.zeroLen.toNat ≤ 32)) ∧
    (let s : State := { State.reset with oneLen := 32, zeroLen := 1 }
     s.cfgValid = false ∧ 1 ≤ s.oneLen.toNat ∧ s.oneLen.toNat ≤ 32 ∧ 1 ≤ s.zeroLen.toNat ∧ s.zeroLen.toNat ≤ 32) := by
  decide

/-- IN_NBITS just past the capacity and at it. -/
theorem witness_DecodeBitsStoresTheDecodedBits :
    State.reset.cfgValid = false ∧ configured.cfgValid = true ∧ configured.patternsLegal = true ∧
    8 * Config.bufBytes < (withInput configured [] 0 (8 * Config.bufBytes + 1)).inNbits.toNat ∧
    (withInput configured [] 0 (8 * Config.bufBytes)).inNbits.toNat ≤ 8 * Config.bufBytes := by
  refine ⟨by decide, by decide, by decide, ?_, ?_⟩ <;> simp only [withInput]
  · rw [toNat_capacity _ (by omega)]
    omega
  · rw [toNat_capacity _ (by omega)]

/-- IN_LEN just past the capacity and at it. -/
theorem witness_DecodeBytesStoresTheDecodedPayload :
    State.reset.cfgValid = false ∧ configured.cfgValid = true ∧ configured.patternsLegal = true ∧
    Config.bufBytes < (withInput configured [] (Config.bufBytes + 1) 0).inLen.toNat ∧
    (withInput configured [] Config.bufBytes 0).inLen.toNat ≤ Config.bufBytes := by
  have := bufBytes_legal
  refine ⟨by decide, by decide, by decide, ?_, ?_⟩ <;> simp only [withInput]
  · rw [toNat_capacity _ (by omega)]
    omega
  · rw [toNat_capacity _ (by omega)]

theorem witness_DecodesOverIllegalPatternsFault :
    let s : State := { configured with oneLen := 0 }
    s.cfgValid = true ∧ ¬((1 ≤ s.oneLen.toNat ∧ s.oneLen.toNat ≤ 32) ∧ 1 ≤ s.zeroLen.toNat ∧ s.zeroLen.toNat ≤ 32) ∧
      s.inNbits.toNat ≤ 8 * Config.bufBytes ∧ s.inLen.toNat ≤ Config.bufBytes :=
  ⟨by decide, by decide, Nat.zero_le _, Nat.zero_le _⟩

theorem witness_BytesToBitsStoresTheInputBytes :
    Config.bufBytes < (withInput State.reset [] (Config.bufBytes + 1) 0).inLen.toNat ∧
    (withInput State.reset [] Config.bufBytes 0).inLen.toNat ≤ Config.bufBytes :=
  witness_DecodeBytesStoresTheDecodedPayload.2.2.2

theorem witness_BitsToBytesPacksTheInputBits :
    8 * Config.bufBytes < (withInput State.reset [] 0 (8 * Config.bufBytes + 1)).inNbits.toNat ∧
    (withInput State.reset [] 0 (8 * Config.bufBytes)).inNbits.toNat ≤ 8 * Config.bufBytes :=
  witness_DecodeBitsStoresTheDecodedBits.2.2.2

/-- I6 and I5: just too wide and just fitting, and the widest width. -/
theorem witness_IntToBitsStoresTheFixedWidthForm :
    8 ≤ 63 ∧ 2 ^ 8 ≤ ({ State.reset with argValue := 256 } : State).argValue.toNat ∧
    ({ State.reset with argValue := 255 } : State).argValue.toNat < 2 ^ 8 ∧ 32 ≤ 63 := by decide

/-- N6 and N3: just past RESULT's width and at it. -/
theorem witness_BitsToIntWritesResultOnly :
    32 < (withInput State.reset [] 0 33).inNbits.toNat ∧ (withInput State.reset [] 0 32).inNbits.toNat ≤ 32 := by decide

end Sys2Proof.Tests
end

section
/-! PROOFS. The command word: a decoded word is the encoding of a well-formed command. -/

namespace Sys2Proof

/-- A word with its reserved bits 0 is the assembly of its fields (30_encoding R90). -/
theorem assembleWord_fields {w : Word} (hlow : reservedLowField w = 0) (hhigh : reservedHighField w = 0) :
    assembleWord (opField w) (invField w) (revField w) (widthField w) = w := by
  have bit (k : Nat) : BitVec.ofBool (w.getLsbD k) = w.extractLsb' k 1 := by
    apply BitVec.eq_of_getLsbD_eq
    intro i hi
    obtain rfl : i = 0 := by omega
    simp
  unfold assembleWord invField revField
  rw [bit, bit, show 0#2 = reservedLowField w from hlow.symm, show 0#18 = reservedHighField w from hhigh.symm]
  unfold opField reservedLowField widthField reservedHighField
  rw [BitVec.extractLsb'_append_extractLsb'_eq_extractLsb' (rfl : 14 = 8 + 6),
    BitVec.extractLsb'_append_extractLsb'_eq_extractLsb' (rfl : 8 = 6 + 2),
    BitVec.extractLsb'_append_extractLsb'_eq_extractLsb' (rfl : 6 = 5 + 1),
    BitVec.extractLsb'_append_extractLsb'_eq_extractLsb' (rfl : 5 = 4 + 1),
    BitVec.extractLsb'_append_extractLsb'_eq_extractLsb' (rfl : 4 = 0 + 4)]
  exact BitVec.extractLsb'_eq_self

theorem decodePlain_ok {i j : Instr} {w : Word} (h : decodePlain j w = .ok i) :
    j = i ∧ invField w = false ∧ revField w = false ∧ widthField w = 0 := by
  unfold decodePlain at h
  split_ifs at h with hflag hwidth
  · cases h
    simp_all

theorem decodeIntToBits_ok {i : Instr} {w : Word} (h : decodeIntToBits w = .ok i) :
    i = .intToBits (widthField w).toNat ∧ invField w = false ∧ revField w = false := by
  unfold decodeIntToBits at h
  split_ifs at h with hflag
  · cases h
    simp_all

theorem decodeBitsToInt_ok {i : Instr} {w : Word} (h : decodeBitsToInt w = .ok i) :
    i = .bitsToInt (invField w) (revField w) ∧ widthField w = 0 := by
  unfold decodeBitsToInt at h
  split_ifs at h with hwidth
  · cases h
    simp_all

/-- What a legal word says: its reserved bits are 0 and the arm of its OP accepted its arguments (30_encoding R95). -/
theorem decodeCmd_ok {i : Instr} {w : Word} (h : decodeCmd w = .ok i) :
    reservedLowField w = 0 ∧ reservedHighField w = 0 ∧ i.wellFormed = true ∧
      encode i = assembleWord (opField w) (invField w) (revField w) (widthField w) := by
  have op {n : Nat} (hop : (opField w).toNat = n) : opField w = BitVec.ofNat 4 n := by rw [← hop]; simp
  unfold decodeCmd at h
  split_ifs at h with hres
  obtain ⟨hlow, hhigh⟩ : reservedLowField w = 0 ∧ reservedHighField w = 0 := by simpa using hres
  refine ⟨hlow, hhigh, ?_⟩
  split at h <;> rename_i hop
  iterate 5
    obtain ⟨rfl, hinv, hrev, hwidth⟩ := decodePlain_ok h
    exact ⟨rfl, by rw [op hop, hinv, hrev, hwidth]; rfl⟩
  · obtain ⟨rfl, hinv, hrev⟩ := decodeIntToBits_ok h
    refine ⟨(Machine.wellFormed_intToBits_iff _).2 (by omega), ?_⟩
    simp [encode, Instr.opcode, op hop, hinv, hrev]
  · obtain ⟨rfl, hwidth⟩ := decodeBitsToInt_ok h
    exact ⟨rfl, by rw [op hop, hwidth]; rfl⟩
  · cases h

theorem wellFormed_of_decode {i : Instr} {w : Word} (h : decodeCmd w = .ok i) : i.wellFormed = true := by
  obtain ⟨-, -, hwf, -⟩ := decodeCmd_ok h
  exact hwf

/-- The converse of 30_encoding R98: a legal word is the one its command is encoded as. -/
theorem encode_of_decode {i : Instr} {w : Word} (h : decodeCmd w = .ok i) : encode i = w := by
  obtain ⟨hlow, hhigh, -, henc⟩ := decodeCmd_ok h
  rw [henc, assembleWord_fields hlow hhigh]

/-- A word either decodes or is illegal, said without naming the ground (30_encoding R96). -/
theorem decodeCmd_error_of_illegal {w : Word} (h : ∀ i, decodeCmd w ≠ .ok i) : ∃ e, decodeCmd w = .error e := by
  cases hd : decodeCmd w with
  | ok i => exact absurd hd (h i)
  | error e => exact ⟨e, rfl⟩

end Sys2Proof
end

section
/-! PROOFS. Packed bits: what each bit of `bitsToBytes` is, and that no command's output is longer than OUT_MEM. -/

namespace Sys2Proof.Machine

/-- Bit n-1-k of the MSB-first value is element k (40_bitcodec R124). -/
theorem msbValue_testBit {s : BitSeq} {k : Nat} (h : k < s.length) :
    (msbValue s).testBit (s.length - 1 - k) = s.getD k false := by
  induction s generalizing k with
  | nil => simp at h
  | cons b s ih =>
    rw [msbValue_cons, Nat.mul_comm, Nat.testBit_two_pow_mul_add _ (msbValue_lt s)]
    cases k with
    | zero => cases b <;> simp
    | succ k =>
      have hk : k < s.length := by simpa using h
      have hpos : (b :: s).length - 1 - (k + 1) = s.length - 1 - k := by simp; omega
      rw [hpos, if_pos (by omega), List.getD_cons_succ, ih hk]

/-- The pad bits are 0, so padding changes no element (40_bitcodec R130). -/
theorem padRight_getD (s : BitSeq) (k : Nat) : (padRight s).getD k false = s.getD k false := by
  simp only [padRight, List.getD_eq_getElem?_getD, List.getElem?_append, List.getElem?_replicate]
  split_ifs with hk <;> simp_all

theorem chunk_padRight_length {s : BitSeq} {j : Nat} (h : j < ceil8 s.length) : (chunk (padRight s) j).length = 8 := by
  simp only [chunk, List.length_take, List.length_drop, padRight_length]
  omega

/-- Bit 7-k of byte j of the packed bits is element 8j+k, zero where the sequence has ended (40_bitcodec R130). -/
theorem bitsToBytes_getLsbD {s : BitSeq} {j k : Nat} (hj : j < (bitsToBytes s).length) (hk : k < 8) :
    (bitsToBytes s)[j].getLsbD (7 - k) = s.getD (8 * j + k) false := by
  have hlen := chunk_padRight_length (s := s) (j := j) (by simpa using hj)
  have hbit := msbValue_testBit (s := chunk (padRight s) j) (k := k) (by omega)
  have helem : (chunk (padRight s) j).getD k false = (padRight s).getD (8 * j + k) false := by
    simp [chunk, List.getD_eq_getElem?_getD, hk]
  rw [hlen] at hbit
  have hbyte : (bitsToBytes s)[j] = BitVec.ofNat 8 (msbValue (chunk (padRight s) j)) := by
    simp [bitsToBytes, bitsToInt]
  rw [hbyte, BitVec.getLsbD_ofNat, ← padRight_getD, ← helem, ← hbit]
  simp [show 7 - k < 8 by omega]

/-- A buffer that holds packed bits reads back as them, and as 0 in the pad bits (20_memory R62, R63). -/
theorem bitAt_holding {bits : BitSeq} {k : Nat} (h : k < 8 * ceil8 bits.length) (draw : Nat) :
    (Memory.holding draw (bitsToBytes bits)).bitAt k = bits.getD k false := by
  have hbyte : k / 8 < (bitsToBytes bits).length := by rw [bitsToBytes_length]; omega
  rw [Memory.bitAt, Memory.read_holding hbyte, bitsToBytes_getLsbD hbyte (Nat.mod_lt _ (by decide)), Nat.div_add_mod]

/-- The decode loop emits at most one bit for each turn of its fuel (41_linedecoder R172). -/
theorem lineDecodeFrom_length_le (s one zero : BitSeq) (fuel c : Nat) :
    (lineDecodeFrom s one zero fuel c).length ≤ fuel := by
  induction fuel generalizing c with
  | zero => simp
  | succ fuel ih =>
    rw [lineDecodeFrom_succ]
    split_ifs
    · simpa using ih _
    · simpa using ih _
    · simp

theorem lineDecode_length_le (s one zero : BitSeq) : (lineDecode s one zero).length ≤ s.length :=
  lineDecodeFrom_length_le s one zero s.length 0

end Sys2Proof.Machine
end

section
/-! PROOFS. Completions: each command either reports its first error and writes STATUS only, or writes what its row of
10_state R57 says. -/

namespace Sys2Proof.Machine

/-! ### The state a successful completion writes -/

/-- The bit sequence a command writes to OUT_MEM where it completes without error; none for the two commands that
write no output (10_state R57). -/
def State.outputBits (s : State) : Instr → BitSeq
  | .bytesToBits => bytesToBits s.inputBytes
  | .bitsToBytes => s.inputBits
  | .intToBits width => (List.range width).map (msbBit s.argValue.toNat width)
  | .decodeBits => lineDecode s.inputBits s.oneSeq s.zeroSeq
  | .decodeBytes => s.decodedPayload
  | .configure | .bitsToInt _ _ => []

/-- The state a command leaves where it completes without error (10_state R57). -/
def State.succeeded (s : State) (i : Instr) : State :=
  match i with
  | .configure => s.commitConfig.succeed false
  | .bitsToInt inv rev => (s.writeResult (bitsToInt s.inputBits inv rev)).succeed false
  | .bytesToBits | .intToBits _ | .decodeBits => (s.writeBits (s.outputBits i)).succeed false
  | .bitsToBytes | .decodeBytes => (s.writeBits (s.outputBits i)).succeed (padNotice (s.outputBits i).length)

/-! ### The first error, by the checks the meanings make (60_exceptions R208) -/

theorem firstError_configure (s : State) :
    s.firstError .configure = if s.cfgValid then some 0x6 else if s.patternsLegal then none else some 0x1 := by
  have hlens : s.patternsLegal = true ↔
      ¬(s.oneLen.toNat < 1 ∨ 32 < s.oneLen.toNat ∨ s.zeroLen.toNat < 1 ∨ 32 < s.zeroLen.toNat) := by
    rw [s.patternsLegal_iff]; omega
  simp only [State.firstError, hlens, ite_not]

theorem firstError_bytesToBits (s : State) :
    s.firstError .bytesToBits = if s.inLenInRange then none else some 0x4 := by
  simp only [State.firstError, s.inLenInRange_iff, ← Nat.not_lt, ite_not]

theorem firstError_bitsToBytes (s : State) :
    s.firstError .bitsToBytes = if s.inNbitsInRange then none else some 0x4 := by
  simp only [State.firstError, s.inNbitsInRange_iff, ← Nat.not_lt, ite_not]

/-- A decode fails before the commit; after it, it fails where the codec command over the same input does. -/
theorem firstError_decodeBytes (s : State) :
    s.firstError .decodeBytes = if s.cfgValid then if s.inLenInRange then none else some 0x4 else some 0x5 := by
  rw [← firstError_bytesToBits]
  cases hc : s.cfgValid <;> simp [State.firstError, hc]

theorem firstError_decodeBits (s : State) :
    s.firstError .decodeBits = if s.cfgValid then if s.inNbitsInRange then none else some 0x4 else some 0x5 := by
  rw [← firstError_bitsToBytes]
  cases hc : s.cfgValid <;> simp [State.firstError, hc]

theorem firstError_intToBits (s : State) (width : Nat) :
    s.firstError (.intToBits width) = if 2 ^ width ≤ s.argValue.toNat then some 0x2 else none := rfl

theorem firstError_bitsToInt (s : State) (inv rev : Bool) :
    s.firstError (.bitsToInt inv rev) = if s.inNbitsFitResult then none else some 0x4 := by
  simp only [State.firstError, s.inNbitsFitResult_iff, ← Nat.not_lt, ite_not]

/-! ### A completion reports the first error, or succeeds -/

/-- What a command answers: its first error, with STATUS written only, or, where no error applies, its success. -/
theorem exec_next {i : Instr} {s t : State} (h : exec i s = .next t) :
    (∃ code, s.firstError i = some code ∧ t = s.failedWith code) ∨ (s.firstError i = none ∧ t = s.succeeded i) := by
  cases i with
  | configure =>
    rw [firstError_configure]
    rcases execConfigure_cases h with ⟨hc, rfl⟩ | ⟨hc, hp, rfl⟩ | ⟨hc, hp, rfl⟩
    · exact .inl ⟨0x6, by simp [hc], rfl⟩
    · exact .inr ⟨by simp [hc, hp], rfl⟩
    · exact .inl ⟨0x1, by simp [hc, hp], rfl⟩
  | decodeBytes =>
    rw [firstError_decodeBytes]
    rcases execDecodeBytes_cases h with ⟨hc, rfl⟩ | ⟨hc, hr, rfl⟩ | ⟨hc, hr, -, rfl⟩
    · exact .inl ⟨0x5, by simp [hc], rfl⟩
    · exact .inl ⟨0x4, by simp [hc, hr], rfl⟩
    · exact .inr ⟨by simp [hc, hr], rfl⟩
  | decodeBits =>
    rw [firstError_decodeBits]
    rcases execDecodeBits_cases h with ⟨hc, rfl⟩ | ⟨hc, hr, rfl⟩ | ⟨hc, hr, -, rfl⟩
    · exact .inl ⟨0x5, by simp [hc], rfl⟩
    · exact .inl ⟨0x4, by simp [hc, hr], rfl⟩
    · exact .inr ⟨by simp [hc, hr], rfl⟩
  | bytesToBits =>
    rw [firstError_bytesToBits]
    rcases execBytesToBits_cases h with ⟨hr, rfl⟩ | ⟨hr, rfl⟩
    · exact .inl ⟨0x4, by simp [hr], rfl⟩
    · exact .inr ⟨by simp [hr], rfl⟩
  | bitsToBytes =>
    rw [firstError_bitsToBytes]
    rcases execBitsToBytes_cases h with ⟨hr, rfl⟩ | ⟨hr, rfl⟩
    · exact .inl ⟨0x4, by simp [hr], rfl⟩
    · exact .inr ⟨by simp [hr], by simp [State.succeeded, State.outputBits]⟩
  | intToBits width =>
    rw [firstError_intToBits]
    rcases execIntToBits_cases h with ⟨hv, rfl⟩ | ⟨hv, rfl⟩
    · exact .inl ⟨0x2, if_pos hv, rfl⟩
    · exact .inr ⟨if_neg (by omega), rfl⟩
  | bitsToInt inv rev =>
    rw [firstError_bitsToInt]
    rcases execBitsToInt_cases h with ⟨hr, rfl⟩ | ⟨hr, rfl⟩
    · exact .inl ⟨0x4, by simp [hr], rfl⟩
    · exact .inr ⟨by simp [hr], rfl⟩

/-- Only codes 1 to 6 are produced (10_state R35). -/
theorem firstError_code {s : State} {i : Instr} {code : BitVec 4} (h : s.firstError i = some code) :
    1 ≤ code.toNat ∧ code.toNat ≤ 6 := by
  cases i <;> simp only [State.firstError] at h <;> split_ifs at h <;> cases h <;> decide

/-- A CONFIGURE that meets no error found legal pattern lengths (41_linedecoder R161). -/
theorem patternsLegal_of_firstError_none {s : State} (h : s.firstError .configure = none) : s.patternsLegal = true := by
  rw [firstError_configure] at h
  split_ifs at h with hc hp
  exact hp

/-- A command that reads an input met no error only if the input lies inside IN_MEM (60_exceptions R208). -/
theorem input_in_range_of_firstError_none {s : State} {i : Instr} (h : s.firstError i = none) :
    (i = .bytesToBits ∨ i = .decodeBytes → s.inLen.toNat ≤ Config.bufBytes) ∧
    (i = .bitsToBytes ∨ i = .decodeBits → s.inNbits.toNat ≤ 8 * Config.bufBytes) := by
  constructor <;> rintro (rfl | rfl) <;> simp only [State.firstError] at h <;> split_ifs at h <;> omega

/-- No output is longer than OUT_MEM (10_state R50): a range check bounds the input, the decoder emits no more bits than
it reads (41_linedecoder R172), and 63 bits always fit. -/
theorem outputBits_length_le {s : State} {i : Instr} (hw : i.wellFormed = true) (h : s.firstError i = none) :
    (s.outputBits i).length ≤ 8 * Config.bufBytes := by
  obtain ⟨hbytes, hbits⟩ := input_in_range_of_firstError_none h
  cases i with
  | configure | bitsToInt inv rev => exact Nat.zero_le _
  | bytesToBits => simpa [State.outputBits] using hbytes
  | bitsToBytes => simpa [State.outputBits] using hbits
  | intToBits width =>
    have hcap := bufBytes_legal
    rw [wellFormed_intToBits_iff] at hw
    rw [State.outputBits, List.length_map, List.length_range]
    omega
  | decodeBits => exact (lineDecode_length_le _ _ _).trans (by simpa using hbits)
  | decodeBytes => exact (lineDecode_length_le _ _ _).trans (by simpa using hbytes)

/-! ### What both kinds of completion leave and report -/

theorem failedWith_sameOperands (s : State) (code : BitVec 4) : s.SameOperands (s.failedWith code) := by
  constructor <;> intros <;> rfl

theorem succeeded_sameOperands (s : State) (i : Instr) : s.SameOperands (s.succeeded i) := by
  cases i <;> constructor <;> intros <;> rfl

/-- A successful completion reports no error and is over (10_state R53). -/
theorem succeeded_status (s : State) (i : Instr) :
    (s.succeeded i).busy = false ∧ (s.succeeded i).done = true ∧ (s.succeeded i).err = false ∧
      (s.succeeded i).errCode = 0 := by
  cases i <;> exact ⟨rfl, rfl, rfl, rfl⟩

/-- Only CONFIGURE writes CFG_VALID, and it sets it (10_state R34). -/
theorem succeeded_cfgValid (s : State) {i : Instr} (h : i ≠ .configure) : (s.succeeded i).cfgValid = s.cfgValid := by
  cases i with
  | configure => exact absurd rfl h
  | _ => rfl

/-- A command is completed by its meaning, with or without error (10_state R53). -/
theorem exec_next_done {i : Instr} {s t : State} (h : exec i s = .next t) : t.busy = false ∧ t.done = true := by
  rcases exec_next h with ⟨code, -, rfl⟩ | ⟨-, rfl⟩
  · exact ⟨rfl, rfl⟩
  · obtain ⟨hbusy, hdone, -, -⟩ := succeeded_status s i
    exact ⟨hbusy, hdone⟩

theorem exec_next_sameOperands {i : Instr} {s t : State} (h : exec i s = .next t) : s.SameOperands t := by
  rcases exec_next h with ⟨code, -, rfl⟩ | ⟨-, rfl⟩
  · exact failedWith_sameOperands s code
  · exact succeeded_sameOperands s i

/-! ### The engine's turn -/

/-- Everything the engine's turn can do: nothing while BUSY = 0, and while BUSY = 1 the completion of an illegal word or
of the command CMD holds (10_state R30, R53). -/
theorem engineTurn_next {s t : State} (h : engineTurn s = .next t) :
    (s.busy = false ∧ t = s) ∨ (s.busy = true ∧ t = s.failedWith 0x3) ∨
      (s.busy = true ∧ ∃ i, decodeCmd s.cmd = .ok i ∧ exec i s = .next t) := by
  cases hb : s.busy with
  | false =>
    rw [engineTurn_idle hb] at h
    cases h
    exact .inl ⟨rfl, rfl⟩
  | true =>
    rw [engineTurn_busy hb] at h
    cases hd : decodeCmd s.cmd with
    | ok i => exact .inr (.inr ⟨rfl, i, rfl, completion_of_decode hd ▸ h⟩)
    | error e =>
      rw [completion_of_illegal hd] at h
      cases h
      exact .inr (.inl ⟨rfl, rfl⟩)

/-- The completion of an illegal word (30_encoding R96). -/
theorem engineTurn_of_illegal {s : State} (hb : s.busy = true) (h : ∀ i, decodeCmd s.cmd ≠ .ok i) :
    engineTurn s = .next (s.failedWith 0x3) := by
  obtain ⟨e, he⟩ := decodeCmd_error_of_illegal h
  rw [engineTurn_busy hb, completion_of_illegal he]
  rfl

/-- A command in flight is completed by the engine's turn (10_state R53). -/
theorem engineTurn_completes {s t : State} (hb : s.busy = true) (h : engineTurn s = .next t) :
    t.busy = false ∧ t.done = true := by
  rcases engineTurn_next h with ⟨hidle, -⟩ | ⟨-, rfl⟩ | ⟨-, i, -, hexec⟩
  · simp [hb] at hidle
  · exact ⟨rfl, rfl⟩
  · exact exec_next_done hexec

theorem engineTurn_sameOperands {s t : State} (h : engineTurn s = .next t) : s.SameOperands t := by
  rcases engineTurn_next h with ⟨-, rfl⟩ | ⟨-, rfl⟩ | ⟨-, i, -, hexec⟩
  · constructor <;> intros <;> rfl
  · exact failedWith_sameOperands s _
  · exact exec_next_sameOperands hexec

/-- The engine's turn leaves CFG_VALID, or commits: CMD then holds a CONFIGURE that completes without error
(10_state R34). -/
theorem engineTurn_cfgValid {s t : State} (h : engineTurn s = .next t) :
    t.cfgValid = s.cfgValid ∨
      (t.cfgValid = true ∧ s.busy = true ∧ decodeCmd s.cmd = .ok .configure ∧ t.err = false) := by
  rcases engineTurn_next h with ⟨-, rfl⟩ | ⟨-, rfl⟩ | ⟨hb, i, hd, hexec⟩
  · exact .inl rfl
  · exact .inl rfl
  · rcases exec_next hexec with ⟨code, -, rfl⟩ | ⟨-, rfl⟩
    · exact .inl rfl
    · by_cases hi : i = .configure
      · subst hi
        exact .inr ⟨rfl, hb, hd, rfl⟩
      · exact .inl (succeeded_cfgValid s hi)

end Sys2Proof.Machine
end

section
/-! PROOFS. The output a completion holds: lengths, packed bits and pad bits of `State.writeBits`. -/

namespace Sys2Proof.Machine

section Output
variable {s : State} {bits : BitSeq} (hfit : bits.length ≤ 8 * Config.bufBytes)
include hfit

theorem writeBits_outNbits_toNat : (s.writeBits bits).outNbits.toNat = bits.length := by
  have hcap := bufBytes_legal
  rw [State.writeBits_outNbits, BitVec.toNat_ofNat, Nat.mod_eq_of_lt (by omega)]

theorem writeBits_outLen_toNat : (s.writeBits bits).outLen.toNat = ceil8 bits.length := by
  have hcap := bufBytes_legal
  rw [State.writeBits_outLen, BitVec.toNat_ofNat, bitsToBytes_length, Nat.mod_eq_of_lt (by unfold ceil8; omega)]

theorem writeBits_outputConsistent : (s.writeBits bits).outputConsistent := by
  refine ⟨?_, ?_⟩
  · rw [writeBits_outLen_toNat hfit, writeBits_outNbits_toNat hfit]
  · rw [writeBits_outLen_toNat hfit]
    unfold ceil8
    omega

theorem writeBits_outMem_within : (s.writeBits bits).outMem.within Config.bufBytes :=
  Memory.holding_within (by rw [bitsToBytes_length]; unfold ceil8; omega) _

/-- A completion that writes output holds it packed, pad bits 0, with both lengths (20_memory R62, R63). -/
theorem writeBits_succeed_holdsOutput (pad : Bool) : ((s.writeBits bits).succeed pad).HoldsOutput bits where
  nbits := writeBits_outNbits_toNat (s := s) hfit
  len := writeBits_outLen_toNat (s := s) hfit
  packed k hk := by
    have hin : k < 8 * ceil8 bits.length := by unfold ceil8; omega
    exact (bitAt_holding hin _).trans (List.getD_eq_getElem _ _ hk)
  padBits k hk hlen := by
    rw [State.succeed_outLen, writeBits_outLen_toNat hfit] at hlen
    exact (bitAt_holding hlen _).trans (List.getD_eq_default _ _ hk)

theorem writeBits_succeed_padNotice :
    ((s.writeBits bits).succeed (padNotice bits.length)).pad = true ↔
      ((s.writeBits bits).succeed (padNotice bits.length)).outNbits.toNat % 8 ≠ 0 := by
  rw [State.succeed_pad, State.succeed_outNbits, writeBits_outNbits_toNat hfit, padNotice_iff]

end Output

/-- Inside the output, the bytes and the lengths depend on the bits alone, not on the draw behind them. -/
theorem writeBits_succeed_output_congr (s s' : State) (bits : BitSeq) (pad : Bool) :
    ((s'.writeBits bits).succeed pad).outLen = ((s.writeBits bits).succeed pad).outLen ∧
    ((s'.writeBits bits).succeed pad).outNbits = ((s.writeBits bits).succeed pad).outNbits ∧
    ∀ j, j < ((s.writeBits bits).succeed pad).outLen.toNat →
      ((s'.writeBits bits).succeed pad).outMem.read j = ((s.writeBits bits).succeed pad).outMem.read j := by
  refine ⟨rfl, rfl, fun j hj => ?_⟩
  rw [State.succeed_outLen, State.writeBits_outLen, BitVec.toNat_ofNat] at hj
  have hin : j < (bitsToBytes bits).length := hj.trans_le (Nat.mod_le _ _)
  rw [State.succeed_outMem, State.writeBits_outMem, State.succeed_outMem, State.writeBits_outMem,
    Memory.read_holding hin, Memory.read_holding hin]

end Sys2Proof.Machine
end

section
/-! PROOFS. Host accesses and steps: what each can change, said once. -/

namespace Sys2Proof.Machine

/-! ### Host accesses -/

/-- CMD and STATUS but for CFG_VALID are unchanged (10_state R24, R25). -/
structure State.SameReport (s t : State) : Prop where
  cmd : t.cmd = s.cmd
  busy : t.busy = s.busy
  done : t.done = s.done
  err : t.err = s.err
  pad : t.pad = s.pad
  errCode : t.errCode = s.errCode

/-- The host has no write access to the results and to CFG_VALID (10_state R22, R50). -/
theorem hostAccess_keeps_results (s : State) (a : Access) :
    (s.hostAccess a).outLen = s.outLen ∧ (s.hostAccess a).outNbits = s.outNbits ∧
    (s.hostAccess a).outMem = s.outMem ∧ (s.hostAccess a).result = s.result ∧
    (s.hostAccess a).cfgValid = s.cfgValid ∧ (s.hostAccess a).agenda = s.agenda := by
  rcases hostAccess_cases s a with ⟨r, h⟩ | ⟨-, h⟩ | ⟨-, r, w, t, hw, h⟩ | ⟨-, offset, w, i, -, -, h⟩ <;> rw [h]
  case inr.inr.inl =>
    rcases writeReg_cases hw with ⟨-, rfl⟩ | ⟨-, rfl⟩ | ⟨-, rfl⟩ | ⟨-, rfl⟩ |
      ⟨-, ⟨-, rfl⟩ | ⟨-, rfl⟩ | ⟨-, rfl⟩ | ⟨-, rfl⟩⟩ <;> exact ⟨rfl, rfl, rfl, rfl, rfl, rfl⟩
  all_goals exact ⟨rfl, rfl, rfl, rfl, rfl, rfl⟩

/-- A host access issues a command or leaves CMD and STATUS (10_state R52). -/
theorem hostAccess_issues_or_keeps_report (s : State) (a : Access) :
    (∃ w, s.hostAccess a = (s.issue w).respond .writeOk) ∨ s.SameReport (s.hostAccess a) := by
  rcases hostAccess_cases s a with ⟨r, h⟩ | ⟨-, h⟩ | ⟨-, r, w, t, hw, h⟩ | ⟨-, offset, w, i, -, -, h⟩ <;> rw [h]
  case inr.inr.inl =>
    rcases writeReg_cases hw with ⟨-, rfl⟩ | ⟨-, rfl⟩ | ⟨-, rfl⟩ | ⟨-, rfl⟩ |
      ⟨-, ⟨-, rfl⟩ | ⟨-, rfl⟩ | ⟨-, rfl⟩ | ⟨-, rfl⟩⟩
    · exact .inl ⟨w, rfl⟩
    all_goals exact .inr ⟨rfl, rfl, rfl, rfl, rfl, rfl⟩
  all_goals exact .inr ⟨rfl, rfl, rfl, rfl, rfl, rfl⟩

/-- The pattern registers are locked once committed (10_state R34, R43). -/
theorem hostAccess_keeps_locked_patterns {s : State} (hc : s.cfgValid = true) (a : Access) :
    (s.hostAccess a).onePat = s.onePat ∧ (s.hostAccess a).oneLen = s.oneLen ∧
    (s.hostAccess a).zeroPat = s.zeroPat ∧ (s.hostAccess a).zeroLen = s.zeroLen := by
  rcases hostAccess_cases s a with ⟨r, h⟩ | ⟨-, h⟩ | ⟨-, r, w, t, hw, h⟩ | ⟨-, offset, w, i, -, -, h⟩ <;> rw [h]
  case inr.inr.inl =>
    rcases writeReg_cases hw with ⟨-, rfl⟩ | ⟨-, rfl⟩ | ⟨-, rfl⟩ | ⟨-, rfl⟩ | ⟨hopen, -⟩
    case inr.inr.inr.inr => simp [hc] at hopen
    all_goals exact ⟨rfl, rfl, rfl, rfl⟩
  all_goals exact ⟨rfl, rfl, rfl, rfl⟩

/-- While BUSY = 1 an access is answered and nothing else (20_memory R67, R68). -/
theorem hostAccess_of_busy {s : State} (hb : s.busy = true) (a : Access) :
    ∃ r n, s.hostAccess a = { s with resp := some r, draws := n } := by
  rcases hostAccess_cases s a with ⟨r, h⟩ | ⟨-, h⟩ | ⟨hidle, -⟩ | ⟨hidle, -⟩
  · exact ⟨r, s.draws, h⟩
  · exact ⟨_, _, h⟩
  · simp [hb] at hidle
  · simp [hb] at hidle

/-! ### Accesses to registers -/

theorem aligned_regOffset (r : Reg) : aligned (BitVec.ofNat 18 r.offset) = true := by
  cases r <;> rfl

theorem target_regOffset (r : Reg) : target (BitVec.ofNat 18 r.offset) = .reg r := by
  cases r <;> rfl

theorem hostAccess_readReg (s : State) (r : Reg) (h : s.busy = false ∨ r.isResult = false) :
    s.hostAccess (.read (BitVec.ofNat 18 r.offset)) = { s with resp := some (.readOk (s.readReg r)) } := by
  have hexact : (s.busy && r.isResult) = false := by rcases h with h | h <;> simp [h]
  simp only [State.hostAccess, aligned_regOffset, target_regOffset, State.readTarget, hexact]
  rfl

theorem fullWord_of_whole {strobes : Option (BitVec 4)} (h : strobes = none ∨ strobes = some 0xF#4) :
    fullWord strobes = true := by
  rcases h with rfl | rfl <;> rfl

/-- A whole-word register write while BUSY = 0 is what `State.writeReg` says of it. -/
theorem hostAccess_writeReg {s t : State} {r : Reg} {w : Word} {strobes : Option (BitVec 4)}
    (hs : strobes = none ∨ strobes = some 0xF#4) (hb : s.busy = false) (hw : s.writeReg r w = some t) :
    s.hostAccess (.write (BitVec.ofNat 18 r.offset) w strobes) = { t with resp := some .writeOk } := by
  simp only [State.hostAccess, aligned_regOffset, target_regOffset, fullWord_of_whole hs, hb, State.writeTarget, hw]
  rfl

theorem hostAccess_write_of_busy {s : State} (hb : s.busy = true) (offset : BitVec 18) (w : Word)
    (strobes : Option (BitVec 4)) : s.hostAccess (.write offset w strobes) = { s with resp := some .writeError } := by
  exact if_neg (by simp [hb])

/-! ### Steps -/

/-- What led to a step's next state: the engine's turn, first on the agenda or on an empty one, a host access, or a
reset. -/
theorem step_next {s t : State} (h : step s = .next t) :
    (∃ rest, engineTurn (s.withAgenda rest) = .next t) ∨
    (∃ a rest, t = (s.withAgenda rest).hostAccess a) ∨
    (∃ rest, s.agenda = .reset :: rest ∧ t = (s.withAgenda rest).resetEvent) := by
  rcases step_cases s with ⟨hnil, hs⟩ | ⟨rest, -, hs⟩ | ⟨a, rest, -, hs⟩ | ⟨rest, hreset, hs⟩ <;> rw [hs] at h
  · exact .inl ⟨[], by rw [← hnil]; exact h⟩
  · exact .inl ⟨rest, h⟩
  · cases h
    exact .inr (.inl ⟨a, rest, rfl⟩)
  · cases h
    exact .inr (.inr ⟨rest, hreset, rfl⟩)

end Sys2Proof.Machine
end

section
/-! PROOFS. The invariant of LCDC: every event keeps it, so every step does. -/

namespace Sys2Proof.Machine

theorem withAgenda_inv {s : State} (h : s.Inv) (rest : List Event) : (s.withAgenda rest).Inv :=
  ⟨h.error, h.status, h.output, h.config, h.buffers⟩

theorem respond_inv {s : State} (h : s.Inv) (r : Response) : (s.respond r).Inv :=
  ⟨h.error, h.status, h.output, h.config, h.buffers⟩

/-- A failing completion reports a code of 1 to 6 and touches nothing else. -/
theorem failedWith_inv {s : State} (h : s.Inv) {code : BitVec 4} (hcode : 1 ≤ code.toNat ∧ code.toNat ≤ 6) :
    (s.failedWith code).Inv where
  error := ⟨iff_of_true rfl (by rintro (rfl : code = 0); simp at hcode), hcode.2⟩
  status := by simp [State.statusConsistent, State.failedWith]
  output := h.output
  config := h.config
  buffers := h.buffers

theorem succeed_inv {s : State} (ho : s.outputConsistent) (hc : s.configConsistent) (hb : s.buffersConsistent)
    (pad : Bool) : (s.succeed pad).Inv where
  error := by simp [State.errorConsistent]
  status := by simp [State.statusConsistent]
  output := ho
  config := hc
  buffers := hb

/-- A command that meets no error leaves a good state: CONFIGURE commits legal lengths, and an output fits OUT_MEM. -/
theorem succeeded_inv {s : State} {i : Instr} (h : s.Inv) (hw : i.wellFormed = true) (hok : s.firstError i = none) :
    (s.succeeded i).Inv := by
  have hfit := outputBits_length_le hw hok
  obtain ⟨hinwf, hinwithin, -, -⟩ := h.buffers
  cases i with
  | configure =>
    have hlegal : s.patternsLegal = true := patternsLegal_of_firstError_none hok
    exact succeed_inv (s := s.commitConfig) h.output (fun _ => hlegal) h.buffers _
  | bitsToInt inv rev => exact succeed_inv (s := s.writeResult _) h.output h.config h.buffers _
  | _ =>
    exact succeed_inv (writeBits_outputConsistent hfit) h.config
      ⟨hinwf, hinwithin, Memory.holding_wf _ _, writeBits_outMem_within (s := s) hfit⟩ _

theorem engineTurn_inv {s t : State} (h : s.Inv) (ht : engineTurn s = .next t) : t.Inv := by
  rcases engineTurn_next ht with ⟨-, rfl⟩ | ⟨-, rfl⟩ | ⟨-, i, hd, hexec⟩
  · exact h
  · exact failedWith_inv h (by decide)
  · rcases exec_next hexec with ⟨code, hcode, rfl⟩ | ⟨hok, rfl⟩
    · exact failedWith_inv h (firstError_code hcode)
    · exact succeeded_inv h (wellFormed_of_decode hd) hok

theorem issue_inv {s : State} (h : s.Inv) (w : Word) : (s.issue w).Inv where
  error := by simp [State.errorConsistent]
  status := by simp [State.statusConsistent]
  output := h.output
  config := h.config
  buffers := h.buffers

/-- A register write keeps the invariant: issue clears STATUS, and the pattern registers are writable only while nothing
is committed. -/
theorem writeReg_inv {s t : State} {r : Reg} {w : Word} (h : s.Inv) (hw : s.writeReg r w = some t) : t.Inv := by
  rcases writeReg_cases hw with ⟨-, rfl⟩ | ⟨-, rfl⟩ | ⟨-, rfl⟩ | ⟨-, rfl⟩ | ⟨hopen, hpat⟩
  · exact issue_inv h w
  iterate 3 exact ⟨h.error, h.status, h.output, h.config, h.buffers⟩
  · have hfree : s.cfgValid ≠ true := by simp [hopen]
    rcases hpat with ⟨-, rfl⟩ | ⟨-, rfl⟩ | ⟨-, rfl⟩ | ⟨-, rfl⟩ <;>
      exact ⟨h.error, h.status, h.output, fun hc => absurd hc hfree, h.buffers⟩

theorem hostAccess_inv {s : State} (h : s.Inv) (a : Access) : (s.hostAccess a).Inv := by
  rcases hostAccess_cases s a with ⟨r, ha⟩ | ⟨-, ha⟩ | ⟨-, r, w, t, hw, ha⟩ | ⟨-, offset, w, i, hal, htg, ha⟩ <;> rw [ha]
  · exact respond_inv h r
  · exact ⟨h.error, h.status, h.output, h.config, h.buffers⟩
  · exact respond_inv (writeReg_inv h hw) _
  · obtain ⟨hinwf, hinwithin, houtwf, houtwithin⟩ := h.buffers
    obtain ⟨-, hbound⟩ := target_inWord_bound hal htg
    exact ⟨h.error, h.status, h.output, h.config,
      Memory.writeWord_wf hinwf i w, Memory.writeWord_within hinwithin hbound w, houtwf, houtwithin⟩

/-- From any state, a reset leads to a good one (70_reset R230). -/
theorem resetEvent_inv (s : State) : s.resetEvent.Inv where
  error := by simp [State.errorConsistent]
  status := by simp [State.statusConsistent]
  output := by simp [State.outputConsistent, ceil8]
  config := by simp [State.configConsistent]
  buffers := ⟨Memory.empty_wf _, Memory.empty_within _ _, Memory.empty_wf _, Memory.empty_within _ _⟩

/-- Settles O11: each of the three kinds of event keeps the invariant. -/
theorem stepKeepsInvariant : Obligations.StepKeepsInvariant := by
  intro s t h hstep
  rcases step_next hstep with ⟨rest, hengine⟩ | ⟨a, rest, rfl⟩ | ⟨rest, -, rfl⟩
  · exact engineTurn_inv (withAgenda_inv h rest) hengine
  · exact hostAccess_inv (withAgenda_inv h rest) a
  · exact resetEvent_inv _

end Sys2Proof.Machine
end

section
/-! PROOFS. Invariants of runs: what is reported before the first issue, the pattern lock, and what a command in flight,
a host access and the engine leave unchanged. -/

namespace Sys2Proof.Machine

/-- A state in which a command is in flight or completed is not one before the first issue. -/
theorem untouched_of_reported {s : State} (h : s.busy = true ∨ s.done = true) : s.untouchedBeforeFirstIssue := by
  intro hbusy hdone
  simp [hbusy, hdone] at h

theorem engineTurn_untouched {s t : State} (hs : s.untouchedBeforeFirstIssue) (h : engineTurn s = .next t) :
    t.untouchedBeforeFirstIssue := by
  cases hb : s.busy with
  | false =>
    rw [engineTurn_idle hb] at h
    cases h
    exact hs
  | true => exact untouched_of_reported (.inr (engineTurn_completes hb h).2)

theorem hostAccess_untouched {s : State} (hs : s.untouchedBeforeFirstIssue) (a : Access) :
    (s.hostAccess a).untouchedBeforeFirstIssue := by
  rcases hostAccess_issues_or_keeps_report s a with ⟨w, h⟩ | ⟨hcmd, hbusy, hdone, herr, hpad, hcode⟩
  · rw [h]
    exact untouched_of_reported (.inl rfl)
  · obtain ⟨hlen, hnbits, -, hresult, hcfg, -⟩ := hostAccess_keeps_results s a
    unfold State.untouchedBeforeFirstIssue
    rw [hcmd, hbusy, hdone, herr, hpad, hcode, hlen, hnbits, hresult, hcfg]
    exact hs

theorem resetEvent_untouched (s : State) : s.resetEvent.untouchedBeforeFirstIssue :=
  fun _ _ => ⟨rfl, rfl, rfl, rfl, rfl, rfl, rfl, rfl⟩

theorem step_untouched {s t : State} (hs : s.untouchedBeforeFirstIssue) (h : step s = .next t) :
    t.untouchedBeforeFirstIssue := by
  rcases step_next h with ⟨rest, hengine⟩ | ⟨a, rest, rfl⟩ | ⟨rest, -, rfl⟩
  · exact engineTurn_untouched (s := s.withAgenda rest) hs hengine
  · exact hostAccess_untouched (s := s.withAgenda rest) hs a
  · exact resetEvent_untouched _

/-- Once a command is issued, only a reset leads back to BUSY = 0 with DONE = 0 (10_state R31). -/
theorem step_keeps_reported {s t : State} (hs : s.busy = true ∨ s.done = true)
    (hreset : ∀ rest, s.agenda ≠ .reset :: rest) (h : step s = .next t) : t.busy = true ∨ t.done = true := by
  rcases step_next h with ⟨rest, hengine⟩ | ⟨a, rest, rfl⟩ | ⟨rest, hr, -⟩
  · cases hb : s.busy with
    | false =>
      rw [engineTurn_idle (s := s.withAgenda rest) hb] at hengine
      cases hengine
      exact hs
    | true => exact .inr (engineTurn_completes (s := s.withAgenda rest) hb hengine).2
  · rcases hostAccess_issues_or_keeps_report (s.withAgenda rest) a with ⟨w, ha⟩ | hkeep
    · rw [ha]
      exact .inl rfl
    · rw [hkeep.busy, hkeep.done]
      exact hs
  · exact absurd hr (hreset rest)

/-- Settles O14: the state after reset, the step clause and the no-return clause. -/
theorem nothingIsReportedBeforeTheFirstIssue : Obligations.NothingIsReportedBeforeTheFirstIssue :=
  ⟨fun _ _ => ⟨rfl, rfl, rfl, rfl, rfl, rfl, rfl, rfl⟩, fun _ _ => step_untouched, fun _ _ => step_keeps_reported⟩

/-- CFG_VALID goes from 0 to 1 only where the engine completes a CONFIGURE without error (10_state R34). -/
theorem step_commits_only_configure {s t : State} (h : step s = .next t) (hs : s.cfgValid = false)
    (ht : t.cfgValid = true) : s.busy = true ∧ s.cmd = 0x00000001#32 ∧ t.err = false := by
  rcases step_next h with ⟨rest, hengine⟩ | ⟨a, rest, rfl⟩ | ⟨rest, -, rfl⟩
  · rcases engineTurn_cfgValid hengine with hkeep | ⟨-, hb, hd, herr⟩
    · rw [ht] at hkeep
      exact absurd (hkeep.trans hs) (by decide)
    · exact ⟨hb, (encode_of_decode hd).symm, herr⟩
  · obtain ⟨-, -, -, -, hcfg, -⟩ := hostAccess_keeps_results (s.withAgenda rest) a
    rw [ht] at hcfg
    exact absurd (hcfg.trans hs) (by decide)
  · cases ht

/-- CFG_VALID stays set and the patterns stay, but for a reset (10_state R34). -/
theorem step_keeps_commit {s t : State} (h : step s = .next t) (hs : s.cfgValid = true)
    (hreset : ∀ rest, s.agenda ≠ .reset :: rest) :
    t.cfgValid = true ∧ t.onePat = s.onePat ∧ t.oneLen = s.oneLen ∧ t.zeroPat = s.zeroPat ∧ t.zeroLen = s.zeroLen := by
  rcases step_next h with ⟨rest, hengine⟩ | ⟨a, rest, rfl⟩ | ⟨rest, hr, -⟩
  · have hops := engineTurn_sameOperands hengine
    refine ⟨?_, hops.onePat, hops.oneLen, hops.zeroPat, hops.zeroLen⟩
    rcases engineTurn_cfgValid hengine with hkeep | ⟨hset, -⟩
    · exact hkeep.trans hs
    · exact hset
  · obtain ⟨-, -, -, -, hcfg, -⟩ := hostAccess_keeps_results (s.withAgenda rest) a
    exact ⟨hcfg.trans hs, hostAccess_keeps_locked_patterns (s := s.withAgenda rest) hs a⟩
  · exact absurd hr (hreset rest)

/-- Settles O15: both clauses, by the event the step takes. -/
theorem cfgValidLocksThePatternsUntilReset : Obligations.CfgValidLocksThePatternsUntilReset :=
  fun _ _ h => ⟨step_commits_only_configure h, step_keeps_commit h⟩

/-- Settles O17: the engine's turn and a reset end with BUSY = 0, so the step took a host access. -/
theorem nothingChangesWhileACommandStaysInFlight : Obligations.NothingChangesWhileACommandStaysInFlight := by
  intro s t h hs ht
  rcases step_next h with ⟨rest, hengine⟩ | ⟨a, rest, rfl⟩ | ⟨rest, -, rfl⟩
  · obtain ⟨hidle, -⟩ := engineTurn_completes (s := s.withAgenda rest) hs hengine
    simp [ht] at hidle
  · obtain ⟨r, n, ha⟩ := hostAccess_of_busy (s := s.withAgenda rest) hs a
    rw [ha]
    rfl
  · cases ht

/-- Settles O18, from the frame of a host access. -/
theorem hostAccessesNeverChangeResults : Obligations.HostAccessesNeverChangeResults := by
  intro s a
  obtain ⟨hlen, hnbits, hmem, hresult, hcfg, hagenda⟩ := hostAccess_keeps_results s a
  exact ⟨⟨hlen, hnbits, fun i => by rw [hmem]⟩, hresult, hcfg, hagenda⟩

/-- Settles O19, from the frames of the two kinds of completion. -/
theorem engineNeverChangesOperands : Obligations.EngineNeverChangesOperands := fun _ _ => engineTurn_sameOperands

end Sys2Proof.Machine
end

section
/-! PROOFS. What each completion writes (10_state R57), and that it depends on the command's operands alone (R55). -/

namespace Sys2Proof.Machine

/-- Settles O21: a completion fails with STATUS only, or is the command's success, whose row of R57 is read off
`State.succeeded`. -/
theorem stateWrittenByEachCompletion : Obligations.StateWrittenByEachCompletion := by
  refine ⟨fun s => engineTurn_of_illegal, fun i s t hw h => ?_⟩
  rcases exec_next h with ⟨code, -, rfl⟩ | ⟨hok, rfl⟩
  · exact ⟨fun _ => rfl, fun herr => by cases herr⟩
  · obtain ⟨hbusy, hdone, herr, hcode⟩ := succeeded_status s i
    refine ⟨fun hfail => by simp [herr] at hfail, fun _ => ⟨hbusy, hdone, hcode, succeeded_sameOperands s i, ?_⟩⟩
    have hfit := outputBits_length_le hw hok
    cases i with
    | configure => exact ⟨⟨rfl, rfl, fun _ => rfl⟩, rfl, rfl, rfl⟩
    | bitsToInt inv rev => exact ⟨⟨rfl, rfl, fun _ => rfl⟩, rfl, rfl⟩
    | bytesToBits | intToBits _ | decodeBits => exact ⟨⟨_, writeBits_succeed_holdsOutput hfit _⟩, rfl, rfl, rfl⟩
    | bitsToBytes | decodeBytes =>
      exact ⟨⟨_, writeBits_succeed_holdsOutput hfit _⟩, rfl, writeBits_succeed_padNotice hfit, rfl⟩

/-! ### Noninterference -/

/-- STATUS as a word reads its six fields and nothing else (10_state R25). -/
theorem statusWord_congr {s t : State} (hbusy : t.busy = s.busy) (hdone : t.done = s.done) (herr : t.err = s.err)
    (hpad : t.pad = s.pad) (hcfg : t.cfgValid = s.cfgValid) (hcode : t.errCode = s.errCode) :
    t.statusWord = s.statusWord := by
  simp only [State.statusWord, hbusy, hdone, herr, hpad, hcfg, hcode]

/-- What a command may depend on: the operand registers, the patterns with their commit, and the bytes of IN_MEM
(10_state R55). -/
structure State.SameInputs (s s' : State) : Prop where
  inLen : s'.inLen = s.inLen
  inNbits : s'.inNbits = s.inNbits
  argValue : s'.argValue = s.argValue
  onePat : s'.onePat = s.onePat
  oneLen : s'.oneLen = s.oneLen
  zeroPat : s'.zeroPat = s.zeroPat
  zeroLen : s'.zeroLen = s.zeroLen
  cfgValid : s'.cfgValid = s.cfgValid
  inBytes : ∀ i, s'.inMem.read i = s.inMem.read i

section SameInputs
variable {s s' : State} (h : s.SameInputs s')
include h

theorem firstError_congr (i : Instr) : s'.firstError i = s.firstError i := by
  cases i <;> simp only [State.firstError, h.cfgValid, h.oneLen, h.zeroLen, h.inLen, h.inNbits, h.argValue]

theorem inputBytes_congr : s'.inputBytes = s.inputBytes := by
  simp only [State.inputBytes, Memory.readBytes, h.inLen, funext h.inBytes]

theorem inputBits_congr : s'.inputBits = s.inputBits := by
  have hbit : s'.inMem.bitAt = s.inMem.bitAt := funext fun k => by simp only [Memory.bitAt, h.inBytes]
  simp only [State.inputBits, Memory.readBits, h.inNbits, hbit]

theorem outputBits_congr (i : Instr) : s'.outputBits i = s.outputBits i := by
  have hone : s'.oneSeq = s.oneSeq := by simp only [State.oneSeq, h.onePat, h.oneLen]
  have hzero : s'.zeroSeq = s.zeroSeq := by simp only [State.zeroSeq, h.zeroPat, h.zeroLen]
  cases i <;> simp only [State.outputBits, State.decodedPayload, inputBytes_congr h, inputBits_congr h, h.argValue,
    hone, hzero]

/-- The reports of two successes over the same inputs agree. -/
theorem succeeded_statusWord_congr (i : Instr) : (s'.succeeded i).statusWord = (s.succeeded i).statusWord := by
  obtain ⟨hbusy, hdone, herr, hcode⟩ := succeeded_status s i
  obtain ⟨hbusy', hdone', herr', hcode'⟩ := succeeded_status s' i
  have hpad : (s'.succeeded i).pad = (s.succeeded i).pad := by
    cases i <;> simp [State.succeeded, outputBits_congr h]
  have hcfg : (s'.succeeded i).cfgValid = (s.succeeded i).cfgValid := by
    cases i <;> simp [State.succeeded, h.cfgValid]
  exact statusWord_congr (hbusy'.trans hbusy.symm) (hdone'.trans hdone.symm) (herr'.trans herr.symm) hpad hcfg
    (hcode'.trans hcode.symm)

end SameInputs

/-- Settles O23: two states with the same operands meet the same first error, or succeed with the same report and the
same output. -/
theorem commandsAreSelfContained : Obligations.CommandsAreSelfContained := by
  intro i s s' t t' hsame hcfg h h'
  have hin : s.SameInputs s' := ⟨hsame.inLen, hsame.inNbits, hsame.argValue, hsame.onePat, hsame.oneLen, hsame.zeroPat,
    hsame.zeroLen, hcfg, hsame.inBytes⟩
  have herror := firstError_congr hin i
  rcases exec_next h with ⟨code, he, rfl⟩ | ⟨he, rfl⟩ <;> rcases exec_next h' with ⟨code', he', rfl⟩ | ⟨he', rfl⟩ <;>
    rw [he, he'] at herror
  · cases herror
    exact ⟨statusWord_congr rfl rfl rfl rfl hcfg rfl, fun hok => by cases hok⟩
  · cases herror
  · cases herror
  · refine ⟨succeeded_statusWord_congr hin i, fun _ => ?_⟩
    cases i with
    | configure => trivial
    | bitsToInt inv rev =>
      simp only [State.succeeded, State.succeed_result, State.writeResult_result, inputBits_congr hin]
    | _ =>
      simp only [State.succeeded, outputBits_congr hin]
      exact writeBits_succeed_output_congr s s' _ _

end Sys2Proof.Machine
end

section
/-! PROOFS. STATUS as a word (10_state R25, R36), and the rules of the step and of register accesses. -/

namespace Sys2Proof.Machine

/-- Concatenation as arithmetic: the upper word weighs 2^n. -/
theorem toNat_append_add {m n : Nat} (x : BitVec m) (y : BitVec n) : (x ++ y).toNat = x.toNat * 2 ^ n + y.toNat := by
  rw [BitVec.toNat_append, ← Nat.shiftLeft_add_eq_or_of_lt y.isLt, Nat.shiftLeft_eq]

/-- Settles O34: each concatenation of STATUS weighed by the width below it. -/
theorem statusIsTheSumOfItsFields : Obligations.StatusIsTheSumOfItsFields := by
  intro s
  simp only [State.statusWord, toNat_append_add, BitVec.toNat_ofBool, BitVec.toNat_ofNat]
  omega

/-- Bits 7 to 5 and 31 to 12 of STATUS are the constant fields of its layout (10_state R36). -/
theorem statusWord_reserved (s : State) {k : Nat} (h : (5 ≤ k ∧ k ≤ 7) ∨ 12 ≤ k) : s.statusWord.getLsbD k = false := by
  simp only [State.statusWord, BitVec.getLsbD_append]
  iterate 5 rw [if_neg (by omega)]
  split_ifs
  · exact BitVec.getLsbD_zero
  · omega
  · exact BitVec.getLsbD_zero

/-- A write to a register that takes none is refused, whatever its strobes (10_state R22). -/
theorem hostAccess_write_readOnly {s : State} {r : Reg} {w : Word} (hr : s.writeReg r w = none)
    (strobes : Option (BitVec 4)) :
    s.hostAccess (.write (BitVec.ofNat 18 r.offset) w strobes) = { s with resp := some .writeError } := by
  simp only [State.hostAccess, target_regOffset, State.writeTarget, hr, ite_self]
  rfl

/-- Settles O33. -/
theorem statusReservedBitsReadZero : Obligations.StatusReservedBitsReadZero :=
  fun s => ⟨fun _ => statusWord_reserved s, fun _ => hostAccess_write_readOnly (r := .status) rfl⟩

/-- Settles O5: a word that decodes is the encoding of a well-formed command, and the engine's turn runs it. -/
theorem stepRunsTheDecodedCommand : Obligations.StepRunsTheDecodedCommand := by
  intro s i hb hd
  refine ⟨wellFormed_of_decode hd, fun hnil => ?_, fun rest hcons => ?_⟩
  · rw [step_nil hnil, engineTurn_busy hb, completion_of_decode hd]
  · rw [step_cons hcons, take_engine, engineTurn_busy (s := s.withAgenda rest) hb,
      completion_of_decode (s := s.withAgenda rest) hd]

/-- Settles O6. -/
theorem idleEngineChangesNothing : Obligations.IdleEngineChangesNothing := by
  intro s hb
  refine ⟨fun hnil => ?_, fun rest hcons => ?_⟩
  · rw [step_nil hnil, engineTurn_idle hb]
  · rw [step_cons hcons, take_engine, engineTurn_idle (s := s.withAgenda rest) hb]

/-- Settles O8: the issue, the completion of an illegal word after it, and the refusal while BUSY = 1. -/
theorem writeOfCmdIssuesTheCommand : Obligations.WriteOfCmdIssuesTheCommand := by
  intro s w strobes hs
  have hissue (hb : s.busy = false) :
      s.hostAccess (.write 0x000#18 w strobes) = { s.issue w with resp := some .writeOk } :=
    hostAccess_writeReg (r := .cmd) hs hb rfl
  refine ⟨hissue, fun hb hillegal => ?_, fun hb => hostAccess_write_of_busy hb _ w strobes⟩
  rw [hissue hb]
  exact engineTurn_of_illegal rfl hillegal

/-- Settles O25: every register by its offset, those of the results while BUSY = 0. -/
theorem registersReadAtTheirOffsets : Obligations.RegistersReadAtTheirOffsets := by
  intro s
  have read (r : Reg) (hr : r.isResult = false) := hostAccess_readReg s r (.inr hr)
  have len (v : BitVec 6) : BitVec.ofNat 32 v.toNat = v.setWidth 32 := BitVec.eq_of_toNat_eq (by simp)
  rw [len, len]
  refine ⟨read .cmd rfl, read .status rfl, read .inLen rfl, read .inNbits rfl, read .argValue rfl, fun hb => ?_,
    read .onePat rfl, read .oneLen rfl, read .zeroPat rfl, read .zeroLen rfl, read .bufBytes rfl, read .patMax rfl⟩
  have readResult (r : Reg) := hostAccess_readReg s r (.inl hb)
  exact ⟨readResult .result, readResult .outLen, readResult .outNbits⟩

/-- The low six bits of a word, as the LEN registers store them (10_state R44, R46). -/
theorem lowSixBits (w : Word) : w.extractLsb' 0 6 = BitVec.ofNat 6 (w.toNat % 64) := by
  apply BitVec.eq_of_toNat_eq
  simp

/-- Settles O26: `State.writeReg` at each writable register. -/
theorem registerWritesStoreTheirSignificantBits : Obligations.RegisterWritesStoreTheirSignificantBits := by
  intro s w strobes hs hb
  have write (r : Reg) {t : State} (hw : s.writeReg r w = some t) := hostAccess_writeReg (r := r) hs hb hw
  refine ⟨write .inLen rfl, write .inNbits rfl, write .argValue rfl, fun hc => ?_⟩
  rw [← lowSixBits]
  have hopen : ¬s.cfgValid = true := by simp [hc]
  exact ⟨write .onePat (if_neg hopen), write .oneLen (if_neg hopen), write .zeroPat (if_neg hopen),
    write .zeroLen (if_neg hopen)⟩

end Sys2Proof.Machine
end

section
/-! PROOFS. The offset map (20_memory R61): which offsets hold a register, a word of IN_MEM, a word of OUT_MEM. -/

namespace Sys2Proof.Machine

theorem target_of_inMem {offset : BitVec 18} (hlo : 0x10000 ≤ offset.toNat)
    (hhi : offset.toNat < 0x10000 + Config.bufBytes) : target offset = .inWord (offset.toNat - 0x10000) := by
  have hcap := bufBytes_legal
  have hpage : offset.toNat / 0x10000 = 1 := by omega
  have hindex : offset.toNat % 0x10000 = offset.toNat - 0x10000 := by omega
  simp only [target, hpage, hindex]
  exact if_pos (by omega)

theorem target_of_outMem {offset : BitVec 18} (hlo : 0x20000 ≤ offset.toNat)
    (hhi : offset.toNat < 0x20000 + Config.bufBytes) : target offset = .outWord (offset.toNat - 0x20000) := by
  have hcap := bufBytes_legal
  have hpage : offset.toNat / 0x10000 = 2 := by omega
  have hindex : offset.toNat % 0x10000 = offset.toNat - 0x20000 := by omega
  simp only [target, hpage, hindex]
  exact if_pos (by omega)

theorem offset_of_regAt {n : Nat} {r : Reg} (h : regAt n = some r) : n = r.offset := by
  unfold regAt at h
  split at h <;> cases h <;> rfl

theorem offset_of_target_reg {offset : BitVec 18} {r : Reg} (h : target offset = .reg r) : offset.toNat = r.offset := by
  unfold target at h
  split at h
  · rename_i hpage
    split at h
    · rename_i hreg
      cases h
      have hlow := offset_of_regAt hreg
      omega
    · cases h
  · split_ifs at h
  · split_ifs at h
  · cases h

/-- CMD is at offset 0 only. -/
theorem target_ne_cmd {offset : BitVec 18} (h : offset ≠ 0x000#18) : target offset ≠ .reg .cmd :=
  fun ht => h (BitVec.eq_of_toNat_eq (offset_of_target_reg ht))

section WordOffset
variable {j : Nat} (hj : 4 * j < Config.bufBytes)
include hj

theorem toNat_inWordOffset : (BitVec.ofNat 18 (0x10000 + 4 * j)).toNat = 0x10000 + 4 * j := by
  have hcap := bufBytes_legal
  rw [BitVec.toNat_ofNat, Nat.mod_eq_of_lt (by omega)]

theorem toNat_outWordOffset : (BitVec.ofNat 18 (0x20000 + 4 * j)).toNat = 0x20000 + 4 * j := by
  have hcap := bufBytes_legal
  rw [BitVec.toNat_ofNat, Nat.mod_eq_of_lt (by omega)]

theorem aligned_inWordOffset : aligned (BitVec.ofNat 18 (0x10000 + 4 * j)) = true := by
  rw [aligned_iff, toNat_inWordOffset hj]
  omega

theorem target_inWordOffset : target (BitVec.ofNat 18 (0x10000 + 4 * j)) = .inWord (4 * j) := by
  have hnat := toNat_inWordOffset hj
  rw [target_of_inMem (by omega) (by omega), hnat, Nat.add_sub_cancel_left]

end WordOffset

end Sys2Proof.Machine
end

section
/-! PROOFS. The word over four bytes of a buffer (20_memory R62, R69). -/

namespace Sys2Proof.Machine

theorem Memory.bitAt_byte (m : Memory) (i : Nat) {k : Nat} (hk : k < 8) :
    m.bitAt (8 * i + k) = (m.read i).getLsbD (7 - k) := by
  rw [Memory.bitAt, show (8 * i + k) / 8 = i by omega, show (8 * i + k) % 8 = k by omega]

/-- Bit 31 - t of a word is bit 7 - t mod 8 of its byte t div 8: a word is big-endian. -/
theorem Memory.readWord_getLsbD (m : Memory) (i : Nat) {q k : Nat} (hq : q < 4) (hk : k < 8) :
    (m.readWord i).getLsbD (31 - (8 * q + k)) = (m.read (i + q)).getLsbD (7 - k) := by
  simp only [Memory.readWord, BitVec.getLsbD_append]
  interval_cases q
  all_goals
    simp (disch := omega) only [if_pos, if_neg]
    congr 1
    omega

theorem Memory.readWord_byte (m : Memory) (i : Nat) {q : Nat} (hq : q < 4) :
    (m.readWord i).extractLsb' (24 - 8 * q) 8 = m.read (i + q) := by
  apply BitVec.eq_of_getLsbD_eq
  intro k hk
  have hbit := m.readWord_getLsbD i (k := 7 - k) hq (by omega)
  rw [show 31 - (8 * q + (7 - k)) = 24 - 8 * q + k by omega, show 7 - (7 - k) = k by omega] at hbit
  rw [BitVec.getLsbD_extractLsb', hbit, decide_eq_true hk, Bool.true_and]

/-- Bit 31 - t of word j is element 32j + t of the packed sequence. -/
theorem Memory.readWord_bitAt (m : Memory) (j : Nat) {t : Nat} (ht : t < 32) :
    (m.readWord (4 * j)).getLsbD (31 - t) = m.bitAt (32 * j + t) := by
  have hword := m.readWord_getLsbD (4 * j) (q := t / 8) (k := t % 8) (by omega) (by omega)
  have hseq := m.bitAt_byte (4 * j + t / 8) (k := t % 8) (by omega)
  rw [Nat.div_add_mod] at hword
  rw [show 8 * (4 * j + t / 8) + t % 8 = 32 * j + t by omega] at hseq
  exact hword.trans hseq.symm

end Sys2Proof.Machine
end

section
/-! PROOFS. A write repeated (20_memory R73): on a cell list, a buffer, a register and the block. -/

namespace Sys2Proof.Machine

theorem insertCell_insertCell (cs : List Host.Cell) (i : Nat) (v : Byte) :
    insertCell (insertCell cs i v) i v = insertCell cs i v := by
  induction cs with
  | nil => simp [insertCell]
  | cons c cs ih =>
    obtain ⟨a, b⟩ := c
    rcases Nat.lt_trichotomy i a with hlt | rfl | hgt
    · simp [insertCell, hlt]
    · simp [insertCell]
    · simp [insertCell, hgt.not_gt, hgt.ne', ih]

/-- Two writes at different indices commute as lists, whatever the order of the cells: each goes before the first index
that is not below its own. -/
theorem insertCell_comm (cs : List Host.Cell) {i j : Nat} (hij : i < j) (v u : Byte) :
    insertCell (insertCell cs j u) i v = insertCell (insertCell cs i v) j u := by
  induction cs with
  | nil => simp [insertCell, hij, hij.not_gt, hij.ne']
  | cons c cs ih =>
    obtain ⟨a, b⟩ := c
    rcases Nat.lt_trichotomy j a with hja | rfl | haj
    · simp [insertCell, hja, hij, hij.trans hja, hij.not_gt, hij.ne']
    · simp [insertCell, hij, hij.not_gt, hij.ne']
    · rcases Nat.lt_trichotomy i a with hia | rfl | hai
      · simp [insertCell, hia, haj.not_gt, haj.ne', hij.not_gt, hij.ne']
      · simp [insertCell, haj.not_gt, haj.ne']
      · simp [insertCell, haj.not_gt, haj.ne', hai.not_gt, hai.ne', ih]

theorem Memory.write_write (m : Memory) (i : Nat) (v : Byte) : (m.write i v).write i v = m.write i v := by
  simp only [Memory.write, insertCell_insertCell]

theorem Memory.write_comm (m : Memory) {i j : Nat} (h : i < j) (v u : Byte) :
    (m.write j u).write i v = (m.write i v).write j u := by
  simp only [Memory.write, insertCell_comm _ h]

/-- Holds of every buffer, in canonical form or not (20_memory R73). -/
theorem Memory.writeWord_writeWord (m : Memory) (i : Nat) (w : Word) :
    (m.writeWord i w).writeWord i w = m.writeWord i w := by
  simp (disch := omega) only [Memory.writeWord, Memory.write_comm, Memory.write_write]

/-- The response at hand has no bearing on a register write. -/
theorem writeReg_respond (s : State) (a : Response) (r : Reg) (w : Word) :
    (s.respond a).writeReg r w = (s.writeReg r w).map (fun t => t.respond a) := by
  cases r <;> simp only [State.writeReg, apply_ite (Option.map (fun t : State => t.respond a))] <;> rfl

theorem writeReg_writeReg {s t : State} {r : Reg} {w : Word} (hr : r ≠ .cmd) (h : s.writeReg r w = some t) :
    t.busy = s.busy ∧ t.writeReg r w = some t := by
  rcases writeReg_cases h with ⟨hcmd, -⟩ | ⟨rfl, rfl⟩ | ⟨rfl, rfl⟩ | ⟨rfl, rfl⟩ |
    ⟨hopen, ⟨rfl, rfl⟩ | ⟨rfl, rfl⟩ | ⟨rfl, rfl⟩ | ⟨rfl, rfl⟩⟩
  · exact absurd hcmd hr
  iterate 3 exact ⟨rfl, rfl⟩
  all_goals exact ⟨rfl, if_neg (by simp [hopen])⟩

theorem writeTarget_of_refused {s : State} {r : Reg} {w : Word} (h : s.writeReg r w = none) :
    s.writeTarget (.reg r) w = s.refuseWrite := by
  simp only [State.writeTarget, h]

theorem writeTarget_of_accepted {s t : State} {r : Reg} {w : Word} (h : s.writeReg r w = some t) :
    s.writeTarget (.reg r) w = t.respond .writeOk := by
  simp only [State.writeTarget, h]

/-- A write that issues nothing leaves BUSY, and finds at a second time what it wrote. -/
theorem writeTarget_writeTarget (s : State) {t : Target} (ht : t ≠ .reg .cmd) (w : Word) :
    (s.writeTarget t w).busy = s.busy ∧ (s.writeTarget t w).writeTarget t w = s.writeTarget t w := by
  cases t with
  | reg r =>
    have hr : r ≠ .cmd := fun h => ht (congrArg _ h)
    cases hw : s.writeReg r w with
    | none =>
      have hagain : s.refuseWrite.writeReg r w = none := by rw [State.refuseWrite, writeReg_respond, hw]; rfl
      rw [writeTarget_of_refused hw, writeTarget_of_refused hagain]
      exact ⟨rfl, rfl⟩
    | some u =>
      obtain ⟨hbusy, hu⟩ := writeReg_writeReg hr hw
      have hagain : (u.respond .writeOk).writeReg r w = some (u.respond .writeOk) := by
        rw [writeReg_respond, hu]; rfl
      rw [writeTarget_of_accepted hw, writeTarget_of_accepted hagain]
      exact ⟨hbusy, rfl⟩
  | inWord i =>
    refine ⟨rfl, ?_⟩
    simp only [State.writeTarget, State.writeInWord, State.respond, Memory.writeWord_writeWord]
  | outWord i => exact ⟨rfl, rfl⟩
  | unmapped => exact ⟨rfl, rfl⟩

/-- A refused write is refused again, and one that took effect, but for an issue, takes the same effect again. -/
theorem hostAccess_write_write (s : State) {offset : BitVec 18} (h : offset ≠ 0x000#18) (w : Word)
    (strobes : Option (BitVec 4)) :
    (s.hostAccess (.write offset w strobes)).hostAccess (.write offset w strobes) =
      s.hostAccess (.write offset w strobes) := by
  cases hg : aligned offset && fullWord strobes && !s.busy with
  | false => simp [State.hostAccess, hg, State.refuseWrite, State.respond]
  | true =>
    obtain ⟨hbusy, hagain⟩ := writeTarget_writeTarget s (target_ne_cmd h) w
    simp only [State.hostAccess, hg, hbusy, hagain, if_true]

end Sys2Proof.Machine
end

section
/-! PROOFS. What host accesses to the buffers and to the results answer and leave (20_memory R65 to R69). -/

namespace Sys2Proof.Machine

/-! ### One rule per kind of access -/

theorem hostAccess_read_aligned {offset : BitVec 18} (h : aligned offset = true) (s : State) :
    s.hostAccess (.read offset) = s.readTarget (target offset) := if_pos h

theorem hostAccess_write_granted {s : State} {offset : BitVec 18} {strobes : Option (BitVec 4)}
    (ha : aligned offset = true) (hs : fullWord strobes = true) (hb : s.busy = false) (w : Word) :
    s.hostAccess (.write offset w strobes) = s.writeTarget (target offset) w := if_pos (by simp [ha, hs, hb])

theorem hostAccess_read_inWord (s : State) {j : Nat} (hj : 4 * j < Config.bufBytes) :
    s.hostAccess (.read (BitVec.ofNat 18 (0x10000 + 4 * j))) =
      { s with resp := some (.readOk (s.inMem.readWord (4 * j))) } := by
  rw [hostAccess_read_aligned (aligned_inWordOffset hj), target_inWordOffset hj]
  rfl

theorem hostAccess_write_inWord {s : State} (hb : s.busy = false) {j : Nat} (hj : 4 * j < Config.bufBytes) (w : Word)
    {strobes : Option (BitVec 4)} (hs : strobes = none ∨ strobes = some 0xF#4) :
    s.hostAccess (.write (BitVec.ofNat 18 (0x10000 + 4 * j)) w strobes) =
      { s with inMem := s.inMem.writeWord (4 * j) w, resp := some .writeOk } := by
  have hgranted := hostAccess_write_granted (aligned_inWordOffset hj) (fullWord_of_whole hs) hb w
  rw [hgranted, target_inWordOffset hj]
  rfl

section OutMem
variable {offset : BitVec 18} (hlo : 0x20000 ≤ offset.toNat) (hhi : offset.toNat < 0x20000 + Config.bufBytes)
include hlo hhi

theorem hostAccess_read_outMem {s : State} (hb : s.busy = false) (ha : offset.toNat % 4 = 0) :
    s.hostAccess (.read offset) = { s with resp := some (.readOk (s.outMem.readWord (offset.toNat - 0x20000))) } := by
  rw [hostAccess_read_aligned ((aligned_iff offset).2 ha), target_of_outMem hlo hhi]
  exact if_neg (by simp [hb])

theorem hostAccess_read_outMem_of_busy {s : State} (hb : s.busy = true) (ha : offset.toNat % 4 = 0) :
    s.hostAccess (.read offset) = s.respondFree := by
  rw [hostAccess_read_aligned ((aligned_iff offset).2 ha), target_of_outMem hlo hhi]
  exact if_pos hb

theorem hostAccess_write_outMem (s : State) (w : Word) (strobes : Option (BitVec 4)) :
    s.hostAccess (.write offset w strobes) = { s with resp := some .writeError } := by
  simp only [State.hostAccess, target_of_outMem hlo hhi, State.writeTarget, ite_self]
  rfl

end OutMem

theorem isResult_iff (r : Reg) : r.isResult = true ↔ r ∈ [Reg.result, Reg.outLen, Reg.outNbits] := by
  cases r <;> decide

theorem hostAccess_readResult_of_busy {s : State} (hb : s.busy = true) {r : Reg} (hr : r.isResult = true) :
    s.hostAccess (.read (BitVec.ofNat 18 r.offset)) = s.respondFree := by
  rw [hostAccess_read_aligned (aligned_regOffset r), target_regOffset]
  exact if_pos (by simp [hb, hr])

/-- A read is answered, and at most a free word is drawn (20_memory R68, R73). -/
theorem hostAccess_read_answers (s : State) (offset : BitVec 18) :
    ∃ r n, s.hostAccess (.read offset) = { s with resp := some r, draws := n } := by
  cases ha : aligned offset with
  | false => exact ⟨.readError 0, s.draws, if_neg (by simp [ha])⟩
  | true =>
    rw [hostAccess_read_aligned ha]
    cases target offset with
    | reg r =>
      rw [State.readTarget]
      split_ifs
      · exact ⟨_, _, rfl⟩
      · exact ⟨_, s.draws, rfl⟩
    | inWord i => exact ⟨_, s.draws, rfl⟩
    | outWord i =>
      rw [State.readTarget]
      split_ifs
      · exact ⟨_, _, rfl⟩
      · exact ⟨_, s.draws, rfl⟩
    | unmapped => exact ⟨_, s.draws, rfl⟩

/-! ### The statements -/

/-- Settles O29: result registers and OUT_MEM draw a free word, every other register and IN_MEM read exactly. -/
theorem readsWhileBusy : Obligations.ReadsWhileBusy := by
  intro s hb
  refine ⟨fun offset h => ⟨Config.freeWord s.draws, ?_⟩, fun r hr => ?_, fun j => hostAccess_read_inWord s⟩
  · rcases h with hreg | ⟨ha, hlo, hhi⟩
    · have result (r : Reg) (hr : r.isResult = true) (ho : offset.toNat = r.offset) :
          s.hostAccess (.read offset) = s.respondFree := by
        rw [← hostAccess_readResult_of_busy hb hr, ← ho, BitVec.ofNat_toNat, BitVec.setWidth_eq]
      simp only [List.mem_cons, List.not_mem_nil, or_false] at hreg
      rcases hreg with ho | ho | ho
      · exact result .result rfl ho
      · exact result .outLen rfl ho
      · exact result .outNbits rfl ho
    · exact hostAccess_read_outMem_of_busy hlo hhi hb ha
  · exact hostAccess_readReg s r (.inr (Bool.eq_false_iff.2 (mt (isResult_iff r).1 hr)))

/-- Settles O30: the bytes and bits of `Memory.readWord`, and the bytes of `Memory.writeWord`. -/
theorem bufferWordsAreBigEndian : Obligations.BufferWordsAreBigEndian := by
  intro s j hj
  have bytes (m : Memory) (q : Nat) (hq : q < 4) := m.readWord_byte (4 * j) hq
  refine ⟨⟨_, hostAccess_read_inWord s hj, bytes _ 0 (by decide), bytes _ 1 (by decide), bytes _ 2 (by decide),
    bytes _ 3 (by decide), fun t => s.inMem.readWord_bitAt j⟩, fun hb => ?_, fun hb w strobes hs => ?_⟩
  · have hnat := toNat_outWordOffset hj
    have hread :=
      hostAccess_read_outMem (offset := BitVec.ofNat 18 (0x20000 + 4 * j)) (by omega) (by omega) hb (by omega)
    rw [hnat, Nat.add_sub_cancel_left] at hread
    exact ⟨_, hread, bytes _ 0 (by decide), bytes _ 1 (by decide), bytes _ 2 (by decide), bytes _ 3 (by decide)⟩
  · refine ⟨_, hostAccess_write_inWord hb hj w hs, ?_⟩
    simp only [Memory.read_writeWord]
    refine ⟨by simp, by simp, by simp, by simp, fun i hi => ?_⟩
    rw [if_neg (by omega), if_neg (by omega), if_neg (by omega), if_neg (by omega)]

/-- Settles O31: a read only answers, a write repeated finds what it wrote, and a command in flight refuses the next
issue. -/
theorem accessesAreIdempotentButForCmd : Obligations.AccessesAreIdempotentButForCmd := by
  intro s offset
  refine ⟨hostAccess_read_answers s offset, fun w strobes => ⟨fun h => hostAccess_write_write s h w strobes,
    fun hb hs => ?_⟩⟩
  have hissue : s.hostAccess (.write 0x000#18 w strobes) = { s.issue w with resp := some .writeOk } :=
    hostAccess_writeReg (r := .cmd) hs hb rfl
  rw [hissue, hostAccess_write_of_busy rfl]
  exact ⟨rfl, rfl⟩

/-- Settles O28. -/
theorem writesWhileBusyAreRefused : Obligations.WritesWhileBusyAreRefused :=
  fun _ offset w strobes hb => hostAccess_write_of_busy hb offset w strobes

/-- Settles O32. -/
theorem outMemIsReadOnlyToTheHost : Obligations.OutMemIsReadOnlyToTheHost :=
  fun s _ w strobes hlo hhi => ⟨hostAccess_write_outMem hlo hhi s w strobes, hostAccess_read_outMem hlo hhi⟩

/-- Settles O35: BASE is 2^18 times its index, and an offset is the distance from BASE. -/
theorem windowIsTheAddressesFromBase : Obligations.WindowIsTheAddressesFromBase := by
  refine ⟨Nat.mul_mod_right _ _, fun addr offset => ?_⟩
  have hlt := offset.isLt
  rw [windowOffset, Option.ite_none_right_eq_some, Option.some.injEq, ← BitVec.toNat_inj, BitVec.toNat_ofNat]
  omega

end Sys2Proof.Machine
end

section
/-! PROOFS. Packed bit sequences read from a buffer (20_memory R62). -/

namespace Sys2Proof.Machine

theorem bytesToBits_append (as bs : List Byte) : bytesToBits (as ++ bs) = bytesToBits as ++ bytesToBits bs := by
  induction as with
  | nil => rfl
  | cons a as ih => simp [ih]

/-- One byte more read is eight bits more. -/
theorem Memory.readBits_add_byte (m : Memory) (n : Nat) :
    m.readBits (8 * n + 8) = m.readBits (8 * n) ++ byteBits (m.read n) := by
  have hbyte : (List.range 8).map (fun k => m.bitAt (8 * n + k)) = byteBits (m.read n) :=
    List.map_congr_left fun k hk => m.bitAt_byte n (List.mem_range.1 hk)
  rw [Memory.readBits, List.range_add, List.map_append, List.map_map, ← hbyte]
  rfl

theorem Memory.readBits_whole_bytes (m : Memory) (n : Nat) : m.readBits (8 * n) = bytesToBits (m.readBytes n) := by
  induction n with
  | zero => rfl
  | succ n ih =>
    have hbytes : m.readBytes (n + 1) = m.readBytes n ++ [m.read n] := by
      simp only [Memory.readBytes, List.range_succ, List.map_append, List.map_cons, List.map_nil]
    rw [Nat.mul_succ, m.readBits_add_byte, ih, hbytes, bytesToBits_append, bytesToBits_cons, bytesToBits_nil,
      List.append_nil]

/-- Settles O45: element k is `Memory.bitAt` at k, and whole bytes by induction on their number. -/
theorem packedSequencesAreMsbFirst : Obligations.PackedSequencesAreMsbFirst := by
  intro m n
  refine ⟨m.readBits_length n, fun k hk => ?_, fun m' h => ?_, m.readBits_whole_bytes n⟩
  · rw [Memory.readBits, List.getElem?_map, List.getElem?_range hk]
    rfl
  · exact List.map_congr_left fun k hk => h k (List.mem_range.1 hk)

end Sys2Proof.Machine
end

section
/-! PROOFS. A host's run is the block's run over the agenda it makes (20_memory R75; log 1, 15). -/

namespace Sys2Proof.Machine

/-! ### The engine answers in every good state -/

/-- A command faults only over committed patterns of illegal length (log 9). -/
theorem exec_answers {s : State} (h : s.configConsistent) (i : Instr) : ∃ t, exec i s = .next t := by
  cases i with
  | configure =>
    rw [exec_configure, execConfigure]
    split_ifs <;> exact ⟨_, rfl⟩
  | decodeBytes =>
    rw [exec_decodeBytes, execDecodeBytes]
    split_ifs with hopen hrange hlegal
    iterate 3 exact ⟨_, rfl⟩
    exact absurd (h (by simpa using hopen)) hlegal
  | decodeBits =>
    rw [exec_decodeBits, execDecodeBits]
    split_ifs with hopen hrange hlegal
    iterate 3 exact ⟨_, rfl⟩
    exact absurd (h (by simpa using hopen)) hlegal
  | bytesToBits =>
    rw [exec_bytesToBits, execBytesToBits]
    split_ifs <;> exact ⟨_, rfl⟩
  | bitsToBytes =>
    rw [exec_bitsToBytes, execBitsToBytes]
    split_ifs <;> exact ⟨_, rfl⟩
  | intToBits width =>
    rw [exec_intToBits, execIntToBits]
    cases intToBits s.argValue.toNat width <;> exact ⟨_, rfl⟩
  | bitsToInt inv rev =>
    rw [exec_bitsToInt, execBitsToInt]
    split_ifs <;> exact ⟨_, rfl⟩

theorem engineTurn_answers {s : State} (h : s.configConsistent) : ∃ t, engineTurn s = .next t := by
  cases hb : s.busy with
  | false => exact ⟨s, engineTurn_idle hb⟩
  | true =>
    rw [engineTurn_busy hb]
    cases hd : decodeCmd s.cmd with
    | ok i =>
      rw [completion_of_decode hd]
      exact exec_answers h i
    | error e => exact ⟨_, completion_of_illegal hd⟩

/-! ### Steps over an agenda put before the state's own -/

/-- Settles O7. -/
theorem stepTakesTheOldestArrival : Obligations.StepTakesTheOldestArrival := by
  refine fun s rest => ⟨fun a h => ?_, fun h => ?_⟩
  · rw [step_cons h, take_access]
  · rw [step_cons h, take_reset]

theorem step_access_first (s : State) (a : Access) (rest : List Event) :
    step (s.withAgenda (.access a :: rest)) = .next ((s.hostAccess a).withAgenda rest) := by
  rw [step_cons rfl, take_access, ← hostAccess_withAgenda]
  rfl

theorem step_engine_first {s t : State} (h : engineTurn s = .next t) (rest : List Event) :
    step (s.withAgenda (.engine :: rest)) = .next (t.withAgenda rest) := by
  have hturn : engineTurn (s.withAgenda rest) = .next (t.withAgenda rest) := by rw [engineTurn_withAgenda, h]; rfl
  rw [step_cons rfl, take_engine, ← hturn]
  rfl

/-- A transaction's access is one step of the block; one past the window is none (20_memory R60). -/
theorem Transaction.run_events (t : Transaction) (s : State) (es rest : List Event) :
    Sys2Proof.core.run (t.events ++ es).length (s.withAgenda ((t.events ++ es) ++ rest)) =
      Sys2Proof.core.run es.length ((t.perform s).withAgenda (es ++ rest)) := by
  unfold Transaction.events Transaction.perform
  cases t.access with
  | none => rfl
  | some a => exact run_succ (step_access_first s a (es ++ rest)) es.length

theorem Transaction.perform_inv {s : State} (h : s.Inv) (t : Transaction) : (t.perform s).Inv := by
  unfold Transaction.perform
  cases t.access with
  | none => exact h
  | some a => exact hostAccess_inv h a

/-- Settles O37, by induction on the schedule: each turn of the engine and each transaction inside the window is the
step that takes its entry, and both keep the invariant, so no turn faults. -/
theorem hostRunsAreAgendas : Obligations.HostRunsAreAgendas := by
  intro turns
  induction turns with
  | nil => exact fun _ _ _ _ => rfl
  | cons turn turns ih =>
    intro ops s rest hs
    cases turn with
    | engine =>
      obtain ⟨t, ht⟩ := engineTurn_answers hs.config
      rw [hostRun_engine ht]
      exact (run_succ (step_engine_first ht _) _).trans (ih ops t rest (engineTurn_inv hs ht))
    | host =>
      cases ops with
      | nil => exact ih [] s rest hs
      | cons op ops =>
        exact (op.transaction.run_events s _ rest).trans (ih _ _ rest (op.transaction.perform_inv hs))

end Sys2Proof.Machine
end

section
/-! PROOFS. The command word (30_encoding R90 to R98): decode of encode, the table of legal words, and the illegal
ones. -/

namespace Sys2Proof

/-! ### The fields of an assembled word (R90) -/

section Fields
variable (op : BitVec 4) (inv rev : Bool) (width : BitVec 6)

@[simp] theorem opField_assembleWord : opField (assembleWord op inv rev width) = op :=
  BitVec.extractLsb'_append_eq_right

@[simp] theorem invField_assembleWord : invField (assembleWord op inv rev width) = inv := by
  simp only [invField, assembleWord, BitVec.getLsbD_append]
  simp

@[simp] theorem revField_assembleWord : revField (assembleWord op inv rev width) = rev := by
  simp only [revField, assembleWord, BitVec.getLsbD_append]
  simp

@[simp] theorem reservedLowField_assembleWord : reservedLowField (assembleWord op inv rev width) = 0 := by
  rw [reservedLowField, assembleWord]
  iterate 3 rw [BitVec.extractLsb'_append_eq_of_le (by decide)]
  exact BitVec.extractLsb'_append_eq_right

@[simp] theorem widthField_assembleWord : widthField (assembleWord op inv rev width) = width := by
  rw [widthField, assembleWord]
  iterate 4 rw [BitVec.extractLsb'_append_eq_of_le (by decide)]
  exact BitVec.extractLsb'_append_eq_right

@[simp] theorem reservedHighField_assembleWord : reservedHighField (assembleWord op inv rev width) = 0 := by
  rw [reservedHighField, assembleWord]
  iterate 5 rw [BitVec.extractLsb'_append_eq_of_le (by decide)]
  exact BitVec.extractLsb'_eq_self

end Fields

/-! ### Decode of encode -/

theorem decodePlain_assembleWord (i : Instr) (op : BitVec 4) :
    decodePlain i (assembleWord op false false 0#6) = .ok i := by
  simp [decodePlain]

theorem decodeIntToBits_assembleWord (op : BitVec 4) (width : BitVec 6) :
    decodeIntToBits (assembleWord op false false width) = .ok (.intToBits width.toNat) := by
  simp [decodeIntToBits]

theorem decodeBitsToInt_assembleWord (op : BitVec 4) (inv rev : Bool) :
    decodeBitsToInt (assembleWord op inv rev 0#6) = .ok (.bitsToInt inv rev) := by
  simp [decodeBitsToInt]

/-- Every well-formed command has a legal word: the one the encoder writes (R95, R98). -/
theorem decodeCmd_encode {i : Instr} (h : i.wellFormed = true) : decodeCmd (encode i) = .ok i := by
  cases i with
  | intToBits width =>
    have hwidth := (Machine.wellFormed_intToBits_iff width).1 h
    have hfit : (BitVec.ofNat 6 width).toNat = width := Nat.mod_eq_of_lt (by omega)
    simp [decodeCmd, encode, Instr.opcode, decodeIntToBits_assembleWord, hfit]
  | bitsToInt inv rev => simp [decodeCmd, encode, Instr.opcode, decodeBitsToInt_assembleWord]
  | _ => simp [decodeCmd, encode, Instr.opcode, decodePlain_assembleWord]

/-- A word stands for exactly the well-formed command that is encoded as it. -/
theorem decodeCmd_eq_ok_iff {w : Word} {i : Instr} : decodeCmd w = .ok i ↔ i.wellFormed = true ∧ encode i = w := by
  constructor
  · exact fun h => ⟨wellFormed_of_decode h, encode_of_decode h⟩
  · rintro ⟨hwf, rfl⟩
    exact decodeCmd_encode hwf

/-- Settles O1. -/
theorem decodeOfEncodeIsTheCommand : Obligations.DecodeOfEncodeIsTheCommand := fun _ => decodeCmd_encode

/-- Settles O4: each word is the encoding of its command. -/
theorem wordsWrittenFromTheTableDecode : Obligations.WordsWrittenFromTheTableDecode := by
  simp only [Obligations.WordsWrittenFromTheTableDecode, decodeCmd_eq_ok_iff]
  decide

/-! ### The table of legal words (R98) -/

/-- The word of INT_TO_BITS in the numbers of R98's table. -/
theorem encode_intToBits {v : Nat} (h : v ≤ 63) : encode (.intToBits v) = BitVec.ofNat 32 (6 + v * 2 ^ 8) := by
  apply BitVec.eq_of_toNat_eq
  simp only [encode, assembleWord, Machine.toNat_append_add, Instr.opcode, BitVec.toNat_ofNat, BitVec.toNat_ofBool,
    Bool.toNat_false, BitVec.ofNat_eq_ofNat]
  omega

/-- The commands with no arguments in their words (R95, OP 0x1 to 0x5). -/
def plainCommands : List Instr := [.configure, .decodeBytes, .decodeBits, .bytesToBits, .bitsToBytes]

/-- The well-formed commands, in the order of their opcodes (R91). -/
def legalCommands : List Instr :=
  plainCommands ++ (List.range 64).map Instr.intToBits ++
    [Instr.bitsToInt false false, Instr.bitsToInt true false, Instr.bitsToInt false true, Instr.bitsToInt true true]

theorem mem_legalCommands {i : Instr} : i ∈ legalCommands ↔ i.wellFormed = true := by
  cases i with
  | intToBits width =>
    have hrange : width < 64 ↔ width ≤ 63 := by omega
    simp [legalCommands, plainCommands, Machine.wellFormed_intToBits_iff, hrange]
  | bitsToInt inv rev => cases inv <;> cases rev <;> simp [legalCommands, plainCommands, Instr.wellFormed]
  | _ => simp [legalCommands, plainCommands, Instr.wellFormed]

theorem legalCommands_nodup : legalCommands.Nodup := by
  have hwidths : ((List.range 64).map Instr.intToBits).Nodup := List.nodup_range.map fun _ _ => Instr.intToBits.inj
  simp [legalCommands, plainCommands, List.nodup_append', List.disjoint_left, hwidths]

/-- The legal words, one for each well-formed command. -/
def legalWords : List Word := legalCommands.map encode

theorem mem_legalWords {w : Word} : w ∈ legalWords ↔ ∃ i, decodeCmd w = .ok i := by
  simp only [legalWords, List.mem_map, mem_legalCommands, decodeCmd_eq_ok_iff]

/-- No two commands share a word, since each is what its word decodes to. -/
theorem legalWords_nodup : legalWords.Nodup := by
  refine legalCommands_nodup.map_on fun i hi j hj hij => ?_
  have hdecode := decodeCmd_encode (mem_legalCommands.1 hi)
  rw [hij, decodeCmd_encode (mem_legalCommands.1 hj)] at hdecode
  exact (Except.ok.inj hdecode).symm

/-- Settles O2: a row of the table for each command, and the 73 words of the well-formed commands. -/
theorem legalCommandWordsAreTheTable : Obligations.LegalCommandWordsAreTheTable := by
  refine ⟨fun w i => ?_, legalWords, rfl, legalWords_nodup, fun w => mem_legalWords⟩
  rw [decodeCmd_eq_ok_iff, eq_comm (a := encode i)]
  cases i with
  | intToBits v =>
    simp only [Machine.wellFormed_intToBits_iff, reduceCtorEq, and_false, or_false, false_or, Instr.intToBits.injEq]
    constructor
    · rintro ⟨hv, rfl⟩
      exact ⟨v, hv, encode_intToBits hv, rfl⟩
    · rintro ⟨v, hv, rfl, rfl⟩
      exact ⟨hv, (encode_intToBits hv).symm⟩
  | bitsToInt inv rev => cases inv <;> cases rev <;> simp [Instr.wellFormed] <;> rfl
  | _ => simp [Instr.wellFormed]; rfl

/-! ### The illegal words (R96) -/

theorem plainCommands_encode :
    ∀ i ∈ plainCommands, i.wellFormed = true ∧ encode i = assembleWord i.opcode false false 0 := by
  simp [plainCommands, Instr.wellFormed, encode]

theorem exists_plainCommand :
    ∀ op : BitVec 4, op ≠ 0 → op.toNat < 8 → op ≠ 7 → op ≠ 6 → ∃ i ∈ plainCommands, i.opcode = op := by
  decide

/-- A word is legal exactly when its OP is one of the seven, its reserved bits are 0, and the fields that its OP does
not take are 0 (R92 to R95). -/
theorem exists_decode_iff (w : Word) :
    (∃ i, decodeCmd w = .ok i) ↔
      opField w ≠ 0 ∧ (opField w).toNat < 8 ∧ reservedLowField w = 0 ∧ reservedHighField w = 0 ∧
        (opField w ≠ 7 → invField w = false ∧ revField w = false) ∧ (opField w ≠ 6 → widthField w = 0) := by
  constructor
  · rintro ⟨i, hi⟩
    rw [← encode_of_decode hi]
    cases i <;> simp [encode, Instr.opcode]
  · rintro ⟨hne, hlt, hlow, hhigh, hflags, hwidth⟩
    have hw := assembleWord_fields hlow hhigh
    simp only [decodeCmd_eq_ok_iff]
    by_cases h7 : opField w = 7
    · rw [h7, hwidth (by simp [h7])] at hw
      exact ⟨.bitsToInt (invField w) (revField w), rfl, hw⟩
    obtain ⟨hinv, hrev⟩ := hflags h7
    rw [hinv, hrev] at hw
    by_cases h6 : opField w = 6
    · refine ⟨.intToBits (widthField w).toNat, (Machine.wellFormed_intToBits_iff _).2 (by omega), ?_⟩
      rwa [encode, BitVec.ofNat_toNat, BitVec.setWidth_eq, Instr.opcode, ← h6]
    obtain ⟨i, hi, hop⟩ := exists_plainCommand _ hne hlt h7 h6
    obtain ⟨hwf, hplain⟩ := plainCommands_encode i hi
    rw [hwidth h6, ← hop, ← hplain] at hw
    exact ⟨i, hwf, hw⟩

/-- Settles O3: the grounds are the ways to miss `exists_decode_iff`, and the completion is the engine's turn. -/
theorem illegalWordsCompleteWithIllegalCommand : Obligations.IllegalWordsCompleteWithIllegalCommand := by
  refine fun w => ⟨?_, fun hillegal s hb hcmd => Machine.engineTurn_of_illegal hb (hcmd ▸ hillegal)⟩
  change _ ↔ opField w = 0 ∨ 8 ≤ (opField w).toNat ∨ reservedLowField w ≠ 0 ∨ reservedHighField w ≠ 0 ∨
    ((invField w = true ∨ revField w = true) ∧ opField w ≠ 7) ∨ (widthField w ≠ 0 ∧ opField w ≠ 6)
  rw [← not_exists, exists_decode_iff, ← Nat.not_lt, ← Bool.not_eq_true, ← Bool.not_eq_true]
  tauto

end Sys2Proof
end

section
/-! PROOFS. The symbol patterns a command takes from its registers (30_encoding R99). -/

namespace Sys2Proof.Machine

/-- `patSeq` is the fixed-width form of the low `len` bits of its register (40_bitcodec R122). -/
theorem intToBits_lowBits (pat : Word) (len : BitVec 6) :
    intToBits (pat.toNat % 2 ^ len.toNat) len.toNat = .ok (patBits pat len) := by
  rw [intToBits_of_lt (Nat.mod_lt _ (Nat.two_pow_pos _))]
  congr 1
  refine List.map_congr_left fun k hk => ?_
  have hk := List.mem_range.1 hk
  simp only [msbBit, Nat.testBit_mod_two_pow, BitVec.getLsbD, show len.toNat - 1 - k < len.toNat by omega, decide_true,
    Bool.true_and]

theorem getElem?_patBits (pat : Word) (len : BitVec 6) {k : Nat} (h : k < len.toNat) :
    (patBits pat len)[k]? = some (pat.getLsbD (len.toNat - 1 - k)) := by
  rw [patBits, List.getElem?_map, List.getElem?_range h]
  rfl

theorem execConfigure_refused {s : State} (hc : s.cfgValid = false) (hp : s.patternsLegal = false) :
    execConfigure s = .next (s.raiseErr .configurationError) := by
  simp [execConfigure, hc, hp]

/-- Settles O46. -/
theorem patternsAreTheLowBitsOfTheirRegister : Obligations.PatternsAreTheLowBitsOfTheirRegister := by
  refine ⟨fun s hc hlens => ?_, fun pat len _ _ =>
    ⟨intToBits_lowBits pat len, patBits_length pat len, fun k => getElem?_patBits pat len⟩⟩
  have hp : s.patternsLegal = false := by
    rw [← Bool.not_eq_true, s.patternsLegal_iff]
    omega
  exact execConfigure_refused hc hp

/-- Settles O54: the checks before the patterns pass, and the invariant has no such state. -/
theorem decodesOverIllegalPatternsFault : Obligations.DecodesOverIllegalPatternsFault := by
  intro s hc hlens
  have hp : ¬s.patternsLegal = true := mt s.patternsLegal_iff.1 hlens
  refine ⟨fun hinv => hp (hinv.config hc), fun hlen => ?_, fun hlen => ?_⟩
  · simp [execDecodeBits, hc, s.inNbitsInRange_iff.2 hlen, hp]
  · simp [execDecodeBytes, hc, s.inLenInRange_iff.2 hlen, hp]

end Sys2Proof.Machine
end

section
/-! PROOFS. The transactions of a host's run are an expansion of its program (30_encoding R110, R111; log 15). -/

namespace Sys2Proof.Machine

/-! ### Expansions of a list of primitives -/

/-- `Expands ops ts`: the transactions `ts` are those of the primitives `ops` in order, with some number of polls for
each of them (R111). -/
inductive Expands : List HostOp → List Transaction → Prop where
  | nil : Expands [] []
  | cons (polls : Nat) {op : HostOp} {ops : List HostOp} {ts : List Transaction} (h : Expands ops ts) :
      Expands (op :: ops) (op.transactions polls ++ ts)

theorem Expands.append {xs ys : List HostOp} {ts : List Transaction} (h : Expands (xs ++ ys) ts) :
    ∃ as bs, Expands xs as ∧ Expands ys bs ∧ ts = as ++ bs := by
  induction xs generalizing ts with
  | nil => exact ⟨[], ts, .nil, h, rfl⟩
  | cons x xs ih =>
    obtain _ | ⟨polls, h⟩ := h
    obtain ⟨as, bs, hxs, hys, rfl⟩ := ih h
    exact ⟨_, bs, .cons polls hxs, hys, (List.append_assoc _ _ _).symm⟩

/-- A turn of the host adds the transaction of its first primitive: the only one, the last poll of a WAIT, or one
poll more of a WAIT that is still to end. -/
theorem Expands.turn {op : HostOp} {ops : List HostOp} {t : State} {ts : List Transaction}
    (h : Expands (opsAfter op ops t) ts) : Expands (op :: ops) (op.transaction :: ts) := by
  cases op with
  | send _ => exact .cons 0 h
  | pollIdle =>
    rw [opsAfter] at h
    split_ifs at h
    · exact .cons 0 h
    · obtain _ | ⟨polls, h⟩ := h
      exact .cons (polls + 1) h

/-- A run that leaves nothing makes an expansion of its primitives, by induction on the schedule. -/
theorem hostRun_expands {turns : List Turn} {ops : List HostOp} {s : State} (h : (hostRun turns ops s).left = []) :
    Expands ops (hostRun turns ops s).trace := by
  induction turns generalizing ops s with
  | nil =>
    obtain rfl : ops = [] := h
    exact .nil
  | cons turn turns ih =>
    cases turn with
    | engine =>
      rw [hostRun] at h ⊢
      cases ht : engineTurn s with
      | next t => rw [ht] at h; exact ih h
      | _ =>
        rw [ht] at h
        obtain rfl : ops = [] := h
        exact .nil
    | host =>
      cases ops with
      | nil => exact ih h
      | cons op ops => exact (ih h).turn

/-! ### One number of polls for each statement -/

theorem expands_sends {sent ts : List Transaction} (h : Expands (sent.map .send) ts) : ts = sent := by
  induction sent generalizing ts with
  | nil => cases h; rfl
  | cons t sent ih =>
    obtain _ | ⟨polls, h⟩ := h
    rw [ih h]
    rfl

theorem flatMap_sends (polls : Nat) (sent : List Transaction) :
    (sent.map .send).flatMap (HostOp.transactions polls) = sent := by
  induction sent with
  | nil => rfl
  | cons t sent ih => exact congrArg (t :: ·) ih

/-- A statement is a list of transactions, with a WAIT at most at its end (R110). -/
theorem Stmt.primitives_shape (st : Stmt) :
    ∃ sent : List Transaction,
      st.primitives = sent.map .send ∨ st.primitives = sent.map .send ++ [.pollIdle] := by
  have hload (bs : List Byte) (t : Transaction) :
      ∃ sent : List Transaction, loadOps bs ++ [.send t] = sent.map .send :=
    ⟨(List.range ((bs.length + 3) / 4)).map (fun j => writeLoc (.inWord j) (packedWord bs j)) ++ [t],
      by simp [loadOps]⟩
  cases st with
  | wr loc imm => exact ⟨[writeLoc loc imm], .inl rfl⟩
  | rd loc => exact ⟨[readLoc loc], .inl rfl⟩
  | issue i => exact ⟨[writeLoc (.reg .cmd) (encode i)], .inl rfl⟩
  | wait => exact ⟨[], .inr rfl⟩
  | run i => exact ⟨[writeLoc (.reg .cmd) (encode i)], .inr rfl⟩
  | loadPat one zero => exact ⟨[_, _, _, _], .inl rfl⟩
  | loadBytes bs => exact (hload bs _).imp fun _ => .inl
  | loadBits bits => exact (hload (bitsToBytes bits) _).imp fun _ => .inl

theorem expands_statement {st : Stmt} {ts : List Transaction} (h : Expands st.primitives ts) :
    ∃ polls, ts = st.primitives.flatMap (HostOp.transactions polls) := by
  obtain ⟨sent, hshape | hshape⟩ := st.primitives_shape <;> rw [hshape] at h ⊢
  · exact ⟨0, by rw [flatMap_sends, expands_sends h]⟩
  · obtain ⟨as, bs, has, hbs, rfl⟩ := h.append
    obtain _ | ⟨polls, hnil⟩ := hbs
    cases hnil
    exact ⟨polls, by rw [List.flatMap_append, flatMap_sends, expands_sends has]; rfl⟩

/-- An expansion of a program's primitives is an encoding of the program, by induction on its statements. -/
theorem expands_program {prog : List Stmt} {ops : List HostOp} {ts : List Transaction}
    (hops : programOps prog = some ops) (h : Expands ops ts) :
    ∃ polls : List Nat, polls.length = prog.length ∧ programTransactions (prog.zip polls) = some ts := by
  induction prog generalizing ops ts with
  | nil =>
    obtain rfl : [] = ops := Option.some.inj hops
    cases h
    exact ⟨[], rfl, rfl⟩
  | cons st prog ih =>
    obtain ⟨hwf, more, hmore, rfl⟩ := programOps_cons hops
    obtain ⟨as, bs, has, hbs, rfl⟩ := h.append
    obtain ⟨n, rfl⟩ := expands_statement has
    obtain ⟨polls, hlength, hrest⟩ := ih hmore hbs
    exact ⟨n :: polls, congrArg (· + 1) hlength, programTransactions_cons hwf hrest⟩

/-- Settles O36. -/
theorem hostRunsExpandTheProgram : Obligations.HostRunsExpandTheProgram :=
  fun _ _ _ _ hops hleft => expands_program hops (hostRun_expands hleft)

end Sys2Proof.Machine
end

section
/-! PROOFS. Bits and bytes by position (40_bitcodec R120 to R133): what `intToBits`, `bytesToBits` and `bitsToBytes` hold
at each index, and the round trips between them. -/

namespace Sys2Proof.Machine

/-! ### `intToBits` (R122) -/

theorem msbBit_eq_decide (v width k : Nat) : msbBit v width k = decide (v / 2 ^ (width - 1 - k) % 2 = 1) :=
  Nat.testBit_eq_decide_div_mod_eq

/-- Settles O39: the two branches of `intToBits`, and both again at width 0. -/
theorem intToBitsFitsOrFails : Obligations.IntToBitsFitsOrFails := by
  intro v w
  refine ⟨fun h => ⟨_, intToBits_of_le h⟩, fun h => ⟨_, intToBits_of_lt h, by simp, fun k hk => ?_⟩,
    intToBits_of_lt (by decide), fun h => ⟨_, intToBits_of_le (by simpa using h)⟩⟩
  rw [List.getElem?_map, List.getElem?_range hk, Option.map_some, msbBit_eq_decide]

/-- The bits of a byte are its 8-bit form (R120). -/
theorem intToBits_byte (b : Byte) : intToBits b.toNat 8 = .ok (byteBits b) :=
  intToBits_of_lt b.isLt

/-! ### `bytesToBits` (R120) -/

theorem byteBits_getElem? (b : Byte) {k : Nat} (hk : k < 8) : (byteBits b)[k]? = some (b.getLsbD (7 - k)) := by
  rw [byteBits, List.getElem?_map, List.getElem?_range hk, Option.map_some]

theorem bytesToBits_getElem? {bs : List Byte} {i k : Nat} (hi : i < bs.length) (hk : k < 8) :
    (bytesToBits bs)[8 * i + k]? = some (bs[i].getLsbD (7 - k)) := by
  induction bs generalizing i with
  | nil => simp at hi
  | cons b bs ih =>
    rw [bytesToBits_cons]
    cases i with
    | zero => rw [List.getElem?_append_left (by simpa using hk), Nat.mul_zero, Nat.zero_add, byteBits_getElem? b hk]; rfl
    | succ i =>
      rw [List.getElem?_append_right (by rw [byteBits_length]; omega), byteBits_length,
        show 8 * (i + 1) + k - 8 = 8 * i + k by omega, ih (by simpa using hi)]
      rfl

/-- Settles O38. -/
theorem bytesToBitsByPosition : Obligations.BytesToBitsByPosition := fun bs =>
  ⟨bytesToBits_length bs, fun _ hi _ hk => bytesToBits_getElem? hi hk,
    fun b => by rw [bytesToBits_cons, bytesToBits_nil, List.append_nil, intToBits_byte]⟩

/-! ### `bitsToBytes` (R130), and the round trips (R132, R133) -/

/-- Settles O42. -/
theorem bitsToBytesByPosition : Obligations.BitsToBytesByPosition := fun s =>
  ⟨bitsToBytes_length s, fun _ hj _ hk => bitsToBytes_getLsbD hj hk⟩

theorem ceil8_mul (n : Nat) : ceil8 (8 * n) = n := by unfold ceil8; omega

/-- Byte j of the packed bits of a byte list has the bits of byte j of the list, each at its place (R132). -/
theorem bitsToBytes_bytesToBits (bs : List Byte) : bitsToBytes (bytesToBits bs) = bs := by
  have hlen : (bitsToBytes (bytesToBits bs)).length = bs.length := by
    rw [bitsToBytes_length, bytesToBits_length, ceil8_mul]
  refine List.ext_getElem hlen fun j hj hj' => BitVec.eq_of_getLsbD_eq fun i hi => ?_
  have hpacked := bitsToBytes_getLsbD hj (show 7 - i < 8 by omega)
  rwa [List.getD_eq_getElem?_getD, bytesToBits_getElem? hj' (by omega), Option.getD_some,
    show 7 - (7 - i) = i by omega] at hpacked

/-- Settles O43. -/
theorem bytesRoundTripThroughBits : Obligations.BytesRoundTripThroughBits := bitsToBytes_bytesToBits

/-- Unpacking gives the sequence back with its pad zeros (R133): element k is bit 7 - k mod 8 of byte k div 8. -/
theorem bytesToBits_bitsToBytes (s : BitSeq) : bytesToBits (bitsToBytes s) = padRight s := by
  have hlen : (bytesToBits (bitsToBytes s)).length = (padRight s).length := by
    rw [bytesToBits_length, bitsToBytes_length, padRight_length]
  refine List.ext_getElem hlen fun k hk hk' => ?_
  have hbyte : k / 8 < (bitsToBytes s).length := by rw [bytesToBits_length] at hk; omega
  have hmod : k % 8 < 8 := Nat.mod_lt _ (by decide)
  have helem := bytesToBits_getElem? hbyte hmod
  rw [bitsToBytes_getLsbD hbyte hmod, Nat.div_add_mod, ← padRight_getD, List.getElem?_eq_getElem hk,
    List.getD_eq_getElem _ _ hk'] at helem
  exact Option.some.inj helem

theorem padRight_of_whole_bytes {s : BitSeq} (h : s.length % 8 = 0) : padRight s = s := by
  rw [padRight, show 8 * ceil8 s.length - s.length = 0 by unfold ceil8; omega, List.replicate_zero, List.append_nil]

end Sys2Proof.Machine
end

section
/-! PROOFS. The value of a bit sequence (40_bitcodec R124, R125, R133): as a weighted sum, as the one number with these
bits, and under the options of `bitsToInt`. -/

namespace Sys2Proof.Machine

/-! ### The MSB-first value -/

/-- The MSB-first value is the one number below 2^n whose bit n-1-k is element k. -/
theorem msbValue_eq_of_testBit {s : BitSeq} {v : Nat} (hv : v < 2 ^ s.length)
    (h : ∀ k, k < s.length → v.testBit (s.length - 1 - k) = s.getD k false) : msbValue s = v := by
  refine Nat.eq_of_testBit_eq fun i => ?_
  by_cases hi : i < s.length
  · have hk : s.length - 1 - i < s.length := by omega
    have hbits := (msbValue_testBit hk).trans (h _ hk).symm
    rwa [show s.length - 1 - (s.length - 1 - i) = i by omega] at hbits
  · have hpow : 2 ^ s.length ≤ 2 ^ i := Nat.pow_le_pow_right (by decide) (by omega)
    rw [Nat.testBit_lt_two_pow ((msbValue_lt s).trans_le hpow), Nat.testBit_lt_two_pow (hv.trans_le hpow)]

theorem msbValue_eq_sum (s : BitSeq) :
    msbValue s = ∑ k ∈ Finset.range s.length, (s.getD k false).toNat * 2 ^ (s.length - 1 - k) := by
  induction s with
  | nil => rfl
  | cons b s ih =>
    rw [msbValue_cons, ih, List.length_cons, Finset.sum_range_succ', add_comm]
    congr 1
    refine Finset.sum_congr rfl fun k _ => ?_
    rw [List.getD_cons_succ, show s.length + 1 - 1 - (k + 1) = s.length - 1 - k by omega]

/-- A sequence and its inversion add up to n ones. -/
theorem msbValue_map_not (s : BitSeq) : msbValue (s.map (fun b => !b)) = 2 ^ s.length - 1 - msbValue s := by
  induction s with
  | nil => rfl
  | cons b s ih =>
    have hlt := msbValue_lt s
    rw [List.map_cons, msbValue_cons, msbValue_cons, ih, List.length_map, List.length_cons, pow_succ]
    cases b <;> simp only [Bool.not_false, Bool.not_true, Bool.toNat_false, Bool.toNat_true] <;> omega

/-- Reversing a sequence reverses its value as an n-bit word. -/
theorem msbValue_reverse (s : BitSeq) :
    msbValue s.reverse = (BitVec.ofNat s.length (msbValue s)).reverse.toNat := by
  refine msbValue_eq_of_testBit (by rw [List.length_reverse]; exact BitVec.isLt _) fun k hk => ?_
  rw [List.length_reverse] at hk ⊢
  have hrev : s.length - 1 - (s.length - 1 - k) = k := by omega
  have hk' : s.length - 1 - k < s.length := by omega
  have helem : s.reverse.getD k false = s.getD (s.length - 1 - k) false := by
    rw [List.getD_eq_getElem?_getD, List.getD_eq_getElem?_getD, List.getElem?_reverse hk]
  have hbit := msbValue_testBit hk'
  rw [hrev] at hbit
  rw [helem, ← hbit, ← BitVec.getLsbD, BitVec.getLsbD_reverse, BitVec.getMsbD, hrev, BitVec.getLsbD_ofNat]
  simp [hk, hk']

/-! ### The options of `bitsToInt` -/

theorem bitsToInt_plain (s : BitSeq) : bitsToInt s false false = msbValue s := rfl

theorem bitsToInt_inverted (s : BitSeq) : bitsToInt s true false = msbValue (s.map (fun b => !b)) := rfl

theorem bitsToInt_reversed (s : BitSeq) : bitsToInt s false true = msbValue s.reverse := rfl

theorem bitsToInt_inverted_reversed (s : BitSeq) : bitsToInt s true true = msbValue (s.map (fun b => !b)).reverse := rfl

/-- The sequence that is read as a number: inverted, then reversed (R124). -/
def transformed (s : BitSeq) (inv rev : Bool) : BitSeq :=
  if rev then (s.map (fun b => xor inv b)).reverse else s.map (fun b => xor inv b)

theorem bitsToInt_eq_msbValue (s : BitSeq) (inv rev : Bool) : bitsToInt s inv rev = msbValue (transformed s inv rev) := by
  cases inv <;> simp [bitsToInt, transformed]

@[simp] theorem transformed_length (s : BitSeq) (inv rev : Bool) : (transformed s inv rev).length = s.length := by
  cases rev <;> simp [transformed]

theorem transformed_getD {s : BitSeq} {k : Nat} (hk : k < s.length) (inv rev : Bool) :
    (transformed s inv rev).getD k false = xor inv (s.getD (if rev then s.length - 1 - k else k) false) := by
  have hk' : s.length - 1 - k < s.length := by omega
  cases rev <;> simp [transformed, List.getD_eq_getElem?_getD, hk, hk']

theorem bitsToInt_lt (s : BitSeq) (inv rev : Bool) : bitsToInt s inv rev < 2 ^ s.length := by
  rw [bitsToInt_eq_msbValue, ← transformed_length s inv rev]
  exact msbValue_lt _

/-- Settles O40: the sum of `msbValue_eq_sum` over the transformed sequence. -/
theorem bitsToIntIsTheWeightedSum : Obligations.BitsToIntIsTheWeightedSum := by
  refine fun s inv rev => ⟨?_, bitsToInt_lt s inv rev, by cases rev <;> cases inv <;> rfl⟩
  rw [bitsToInt_eq_msbValue, msbValue_eq_sum, transformed_length]
  exact Finset.sum_congr rfl fun k hk => by rw [transformed_getD (Finset.mem_range.1 hk)]

/-- Settles O41: with both options the inverted sequence is reversed, which is the inversion of the reversed one. -/
theorem inversionAndReversalInClosedForm : Obligations.InversionAndReversalInClosedForm := by
  intro s
  rw [bitsToInt_plain, bitsToInt_plain, bitsToInt_inverted, bitsToInt_reversed, bitsToInt_inverted_reversed,
    ← List.map_reverse, ← msbValue_reverse]
  refine ⟨msbValue_map_not s, rfl, ?_, rfl⟩
  rw [msbValue_map_not, List.length_reverse]

/-! ### The laws of R133 -/

theorem msbValue_intToBits {v w : Nat} {s : BitSeq} (h : intToBits v w = .ok s) : msbValue s = v := by
  obtain ⟨hv, rfl⟩ := intToBits_ok h
  refine msbValue_eq_of_testBit (by simpa using hv) fun k hk => ?_
  rw [List.getD_eq_getElem _ _ hk, List.getElem_map, List.getElem_range, List.length_map, List.length_range, msbBit]

/-- Settles O44. -/
theorem codecLaws : Obligations.CodecLaws :=
  ⟨fun _ _ _ => msbValue_intToBits, fun s h => (bytesToBits_bitsToBytes s).trans (padRight_of_whole_bytes h),
    bytesToBits_bitsToBytes, fun b => msbValue_intToBits (intToBits_byte b)⟩

end Sys2Proof.Machine
end

section
/-! PROOFS. The four BitCodec commands (40_bitcodec R140 to R143): their words, their errors, and what each writes. -/

namespace Sys2Proof.Machine

/-! ### What every successful completion that writes output reports and leaves -/

theorem succeed_completedOk (s : State) (pad : Bool) : (s.succeed pad).CompletedOk pad := ⟨rfl, rfl, rfl, rfl, rfl⟩

theorem writeBits_succeed_wroteOutputOnly (s : State) (bits : BitSeq) (pad : Bool) :
    s.WroteOutputOnly ((s.writeBits bits).succeed pad) :=
  ⟨by constructor <;> intros <;> rfl, rfl, rfl⟩

/-- A held buffer reads back as the bytes it holds (20_memory R63). -/
theorem Memory.readBytes_holding (draw : Nat) (bs : List Byte) : (Memory.holding draw bs).readBytes bs.length = bs := by
  refine List.ext_getElem (Memory.readBytes_length _ _) fun i _ hi => ?_
  simp only [Memory.readBytes, List.getElem_map, List.getElem_range, Memory.read_holding hi]

/-- The bytes of a completion's output, read over OUT_LEN, are the packed bits (20_memory R63). -/
theorem writeBits_succeed_readBytes {s : State} {bits : BitSeq} (hfit : bits.length ≤ 8 * Config.bufBytes) (pad : Bool) :
    ((s.writeBits bits).succeed pad).outMem.readBytes ((s.writeBits bits).succeed pad).outLen.toNat =
      bitsToBytes bits := by
  rw [State.succeed_outLen, writeBits_outLen_toNat hfit, ← bitsToBytes_length]
  exact Memory.readBytes_holding _ _

/-! ### The meanings, by their checks -/

theorem execBytesToBits_of_fit {s : State} (h : s.inLen.toNat ≤ Config.bufBytes) :
    execBytesToBits s = .next ((s.writeBits (bytesToBits s.inputBytes)).succeed false) :=
  if_pos (s.inLenInRange_iff.2 h)

theorem execBytesToBits_of_not_fit {s : State} (h : Config.bufBytes < s.inLen.toNat) :
    execBytesToBits s = .next (s.failedWith 0x4) :=
  if_neg fun hr => absurd (s.inLenInRange_iff.1 hr) (by omega)

theorem execBitsToBytes_of_fit {s : State} (h : s.inNbits.toNat ≤ 8 * Config.bufBytes) :
    execBitsToBytes s = .next ((s.writeBits s.inputBits).succeed (padNotice s.inNbits.toNat)) :=
  if_pos (s.inNbitsInRange_iff.2 h)

theorem execBitsToBytes_of_not_fit {s : State} (h : 8 * Config.bufBytes < s.inNbits.toNat) :
    execBitsToBytes s = .next (s.failedWith 0x4) :=
  if_neg fun hr => absurd (s.inNbitsInRange_iff.1 hr) (by omega)

theorem execIntToBits_of_fit {s : State} {width : Nat} (h : s.argValue.toNat < 2 ^ width) :
    execIntToBits width s =
      .next ((s.writeBits ((List.range width).map (msbBit s.argValue.toNat width))).succeed false) := by
  rw [execIntToBits, intToBits_of_lt h]

theorem execIntToBits_of_not_fit {s : State} {width : Nat} (h : 2 ^ width ≤ s.argValue.toNat) :
    execIntToBits width s = .next (s.failedWith 0x2) := by
  rw [execIntToBits, intToBits_of_le h]
  rfl

theorem execBitsToInt_of_fit {s : State} (h : s.inNbits.toNat ≤ 32) (inv rev : Bool) :
    execBitsToInt inv rev s = .next ((s.writeResult (bitsToInt s.inputBits inv rev)).succeed false) :=
  if_pos (s.inNbitsFitResult_iff.2 h)

theorem execBitsToInt_of_not_fit {s : State} (h : 32 < s.inNbits.toNat) (inv rev : Bool) :
    execBitsToInt inv rev s = .next (s.failedWith 0x4) :=
  if_neg fun hr => absurd (s.inNbitsFitResult_iff.1 hr) (by omega)

/-! ### The command words (30_encoding R90) -/

theorem decodeCmd_eq_ok_iff_eq_encode {i : Instr} (h : i.wellFormed = true) (w : Word) :
    decodeCmd w = .ok i ↔ w = encode i := by
  rw [decodeCmd_eq_ok_iff, eq_comm (a := w)]
  exact and_iff_right h

/-- WIDTH is the field from bit 8 on, and OP 0x6 lies below it. -/
theorem encode_intToBits_eq_or {width : Nat} (h : width ≤ 63) :
    encode (.intToBits width) = 0x00000006#32 ||| (BitVec.ofNat 32 width <<< 8) := by
  have hfields : ∀ v : Fin 64,
      encode (.intToBits v) = 0x00000006#32 ||| (BitVec.ofNat 32 v <<< 8) := by decide
  exact hfields ⟨width, by omega⟩

theorem encode_bitsToInt_eq_or (inv rev : Bool) :
    encode (.bitsToInt inv rev) =
      0x00000007#32 ||| (BitVec.ofNat 32 inv.toNat <<< 4) ||| (BitVec.ofNat 32 rev.toNat <<< 5) := by
  cases inv <;> cases rev <;> rfl

/-! ### The statements -/

/-- Settles O55: the output bytes are the packed bits of the input bytes, which are the input bytes (R132). -/
theorem bytesToBitsStoresTheInputBytes : Obligations.BytesToBitsStoresTheInputBytes := by
  refine fun s => ⟨decodeCmd_eq_ok_iff_eq_encode rfl, execBytesToBits_of_not_fit, fun hlen =>
    ⟨_, execBytesToBits_of_fit hlen, succeed_completedOk _ _, writeBits_succeed_wroteOutputOnly _ _ _, ?_⟩⟩
  have hbits : (bytesToBits s.inputBytes).length = 8 * s.inLen.toNat := by simp
  have hfit : (bytesToBits s.inputBytes).length ≤ 8 * Config.bufBytes := by omega
  refine ⟨writeBits_succeed_holdsOutput hfit _, BitVec.eq_of_toNat_eq ?_, ?_, fun j hj => ?_⟩
  · rw [State.succeed_outLen, writeBits_outLen_toNat hfit, hbits, ceil8_mul]
  · rw [State.succeed_outNbits, writeBits_outNbits_toNat hfit, hbits]
  · have hin : j < s.inputBytes.length := by simpa using hj
    rw [State.succeed_outMem, State.writeBits_outMem, bitsToBytes_bytesToBits, Memory.read_holding hin]
    simp only [State.inputBytes, Memory.readBytes, List.getElem_map, List.getElem_range]

/-- Settles O56. -/
theorem bitsToBytesPacksTheInputBits : Obligations.BitsToBytesPacksTheInputBits := by
  refine fun s => ⟨decodeCmd_eq_ok_iff_eq_encode rfl, execBitsToBytes_of_not_fit, fun hnbits => ?_⟩
  have hbits : s.inputBits.length = s.inNbits.toNat := s.inputBits_length
  have hfit : s.inputBits.length ≤ 8 * Config.bufBytes := hbits ▸ hnbits
  have hpad : padNotice s.inNbits.toNat = decide (s.inNbits.toNat % 8 ≠ 0) := by
    rw [Bool.eq_iff_iff, padNotice_iff, decide_eq_true_iff]
  refine ⟨_, execBitsToBytes_of_fit hnbits, hpad ▸ succeed_completedOk _ _, writeBits_succeed_wroteOutputOnly _ _ _,
    writeBits_succeed_holdsOutput hfit _, BitVec.eq_of_toNat_eq ?_, writeBits_succeed_readBytes hfit _⟩
  rw [State.succeed_outNbits, writeBits_outNbits_toNat hfit, hbits]

/-- Settles O57: the output holds the `width` bits of `intToBits`, and a 32-bit value fits every width from 32 on. -/
theorem intToBitsStoresTheFixedWidthForm : Obligations.IntToBitsStoresTheFixedWidthForm := by
  refine fun s width hw => ⟨fun w => ?_, execIntToBits_of_not_fit, fun h32 => ?_, fun hv => ?_⟩
  · rw [decodeCmd_eq_ok_iff_eq_encode ((wellFormed_intToBits_iff width).2 hw), encode_intToBits_eq_or hw]
  · exact s.argValue.isLt.trans_le (Nat.pow_le_pow_right (by decide) h32)
  · have hcap := bufBytes_legal
    have hbits : ((List.range width).map (msbBit s.argValue.toNat width)).length = width := by simp
    have hout := writeBits_succeed_holdsOutput (s := s) (hbits.trans_le (by omega)) false
    have hlen := hbits ▸ hout.len
    refine ⟨_, execIntToBits_of_fit hv, succeed_completedOk _ _, writeBits_succeed_wroteOutputOnly _ _ _,
      hout.nbits.trans hbits, hlen, by omega, fun k hk => ?_, fun k hk => hout.padBits k (hbits.trans_le hk)⟩
    rw [hout.packed k (hk.trans_eq hbits.symm), List.getElem_map, List.getElem_range, msbBit_eq_decide]

/-- Settles O58: a value of at most 32 bits fits RESULT whole. -/
theorem bitsToIntWritesResultOnly : Obligations.BitsToIntWritesResultOnly := by
  refine fun s inv rev => ⟨fun w => ?_, fun h => execBitsToInt_of_not_fit h inv rev, fun hnbits => ?_⟩
  · rw [decodeCmd_eq_ok_iff_eq_encode rfl, encode_bitsToInt_eq_or]
  · have hlt : bitsToInt s.inputBits inv rev < 2 ^ s.inNbits.toNat := by simpa using bitsToInt_lt s.inputBits inv rev
    have hword : 2 ^ s.inNbits.toNat ≤ 2 ^ 32 := Nat.pow_le_pow_right (by decide) hnbits
    have hval : (BitVec.ofNat 32 (bitsToInt s.inputBits inv rev)).toNat = bitsToInt s.inputBits inv rev :=
      Nat.mod_eq_of_lt (hlt.trans_le hword)
    exact ⟨_, execBitsToInt_of_fit hnbits inv rev, hval, hval.trans_lt hlt⟩

end Sys2Proof.Machine
end

section
/-! PROOFS. Runs with no reset to come: committed patterns stay along them (41_linedecoder R160, 70_reset R234). -/

namespace Sys2Proof.Machine

/-! ### Properties along a run -/

/-- A run that answers a next state after k + 1 steps has a first step and a run of k more. -/
theorem core_run_succ_next {M : Host.Core} {k : Nat} {s t : M.State} (h : M.run (k + 1) s = .next t) :
    ∃ u, M.step s = .next u ∧ M.run k u = .next t := by
  simp only [Host.Core.run] at h
  split at h
  · rename_i u hstep
    exact ⟨u, hstep, h⟩
  · cases h
  · cases h

/-- What every step keeps holds at the end of every run. -/
theorem core_run_induction {M : Host.Core} {P : M.State → Prop}
    (hstep : ∀ {s t : M.State}, P s → M.step s = .next t → P t) (k : Nat) :
    ∀ {s t : M.State}, P s → M.run k s = .next t → P t := by
  induction k with
  | zero =>
    intro s t hs h
    cases h
    exact hs
  | succ k ih =>
    intro s t hs h
    obtain ⟨u, hfirst, hrest⟩ := core_run_succ_next h
    exact ih (hstep hs hfirst) hrest

/-- A step takes the oldest arrival off the agenda and puts none on it (log 1). -/
theorem step_agenda {s t : State} (h : step s = .next t) : t.agenda = s.agenda.tail := by
  rcases step_cases s with ⟨hs, hstep⟩ | ⟨rest, hs, hstep⟩ | ⟨a, rest, hs, hstep⟩ | ⟨rest, hs, hstep⟩ <;>
    rw [hstep] at h <;> rw [hs]
  · exact (engineTurn_sameOperands h).agenda.trans hs
  · exact (engineTurn_sameOperands h).agenda
  · cases h
    obtain ⟨-, -, -, -, -, hagenda⟩ := hostAccess_keeps_results (s.withAgenda rest) a
    exact hagenda
  · cases h
    rfl

/-! ### Committed patterns -/

/-- A state in which the patterns `one` and `zero` are committed, with no reset to come. -/
structure State.Committed (one zero : BitSeq) (s : State) : Prop where
  cfgValid : s.cfgValid = true
  noReset : Event.reset ∉ s.agenda
  oneSeq : s.oneSeq = one
  zeroSeq : s.zeroSeq = zero

theorem step_keeps_committed {one zero : BitSeq} {s t : State} (hs : s.Committed one zero) (h : step s = .next t) :
    t.Committed one zero := by
  have hnot : ∀ rest, s.agenda ≠ .reset :: rest := fun rest hr => hs.noReset (by simp [hr])
  obtain ⟨hcfg, honePat, honeLen, hzeroPat, hzeroLen⟩ := step_keeps_commit h hs.cfgValid hnot
  refine ⟨hcfg, fun hmem => hs.noReset ?_, ?_, ?_⟩
  · rw [step_agenda h] at hmem
    exact List.mem_of_mem_tail hmem
  · rw [← hs.oneSeq, State.oneSeq, honePat, honeLen, State.oneSeq]
  · rw [← hs.zeroSeq, State.zeroSeq, hzeroPat, hzeroLen, State.zeroSeq]

/-- Settles O16, by induction on the steps of the run. -/
theorem committedPatternsAreImmutable : Obligations.CommittedPatternsAreImmutable := by
  intro k s t hcfg hreset hrun
  have ht := core_run_induction (M := Sys2Proof.core) (P := State.Committed s.oneSeq s.zeroSeq) step_keeps_committed k
    ⟨hcfg, hreset, rfl, rfl⟩ hrun
  exact ⟨ht.cfgValid, ht.oneSeq, ht.zeroSeq⟩

end Sys2Proof.Machine
end

section
/-! PROOFS. The greedy scan of `lineDecode` (41_linedecoder R170 to R177): one turn of its loop, and its output as a
parse of the input. -/

namespace Sys2Proof.Machine

/-! ### The loop from a cursor is the loop over the rest of the input -/

/-- A full match at the cursor: the pattern begins what is left of the input (R170). -/
theorem matchAt_eq_isPrefixOf {p : BitSeq} (hp : p ≠ []) (s : BitSeq) (c : Nat) :
    matchAt s c p = p.isPrefixOf (s.drop c) := by
  have hpos : 0 < p.length := List.length_pos_iff.2 hp
  rw [Bool.eq_iff_iff, matchAt_iff, List.isPrefixOf_iff_prefix]
  constructor
  · rintro ⟨-, htake⟩
    exact List.prefix_iff_eq_take.2 htake.symm
  · intro hprefix
    have hlen := hprefix.length_le
    rw [List.length_drop] at hlen
    exact ⟨by omega, (List.prefix_iff_eq_take.1 hprefix).symm⟩

section Loop
variable {one zero : BitSeq} (hone : one ≠ []) (hzero : zero ≠ [])
include hone hzero

theorem lineDecodeFrom_drop (s : BitSeq) (c fuel d : Nat) :
    lineDecodeFrom s one zero fuel (c + d) = lineDecodeFrom (s.drop c) one zero fuel d := by
  induction fuel generalizing d with
  | zero => rfl
  | succ fuel ih =>
    simp only [lineDecodeFrom_succ, matchAt_eq_isPrefixOf hone, matchAt_eq_isPrefixOf hzero, List.drop_drop,
      Nat.add_assoc, ih]

/-- Any fuel that covers the bits left gives the decoding of the rest of the input (log 14). -/
theorem lineDecodeFrom_eq_lineDecode {s : BitSeq} {fuel c : Nat} (h : s.length ≤ c + fuel) :
    lineDecodeFrom s one zero fuel c = lineDecode (s.drop c) one zero := by
  have henough : (s.drop c).length ≤ fuel := by
    rw [List.length_drop]
    omega
  rw [← Nat.add_zero c, lineDecodeFrom_drop hone hzero, Nat.add_zero]
  induction fuel, henough using Nat.le_induction with
  | base => rfl
  | succ fuel hle ih => rw [lineDecodeFrom_fuel hone hzero (by omega), ih (by rw [List.length_drop] at hle; omega)]

/-- One turn of the loop (R170). -/
theorem lineDecode_eq (s : BitSeq) :
    lineDecode s one zero =
      if one.isPrefixOf s then true :: lineDecode (s.drop one.length) one zero
      else if zero.isPrefixOf s then false :: lineDecode (s.drop zero.length) one zero
      else [] := by
  have hturn : lineDecode s one zero = lineDecodeFrom s one zero (s.length + 1) 0 :=
    (lineDecodeFrom_fuel hone hzero (by omega)).symm
  rw [hturn, lineDecodeFrom_succ, matchAt_eq_isPrefixOf hone, matchAt_eq_isPrefixOf hzero, List.drop_zero,
    lineDecodeFrom_eq_lineDecode hone hzero (by omega), lineDecodeFrom_eq_lineDecode hone hzero (by omega),
    Nat.zero_add, Nat.zero_add]

end Loop

/-- Settles O47. -/
theorem lineDecodeIsTheGreedyScan : Obligations.LineDecodeIsTheGreedyScan := fun _ _ => lineDecode_eq

/-! ### Greedy parses -/

/-- `GreedyParse one zero s d`: the scan of `s` emits `d`, one constructor for each outcome of a turn (R170, R171). -/
inductive GreedyParse (one zero : BitSeq) : BitSeq → BitSeq → Prop where
  | stop {s : BitSeq} (hmiss1 : ¬one <+: s) (hmiss0 : ¬zero <+: s) : GreedyParse one zero s []
  | emitOne {rest d : BitSeq} (hrest : GreedyParse one zero rest d) : GreedyParse one zero (one ++ rest) (true :: d)
  | emitZero {rest d : BitSeq} (hmiss1 : ¬one <+: zero ++ rest) (hrest : GreedyParse one zero rest d) :
      GreedyParse one zero (zero ++ rest) (false :: d)

/-- The decoder's output is a greedy parse: each emitted bit leaves a shorter input. -/
theorem lineDecode_greedyParse {one zero : BitSeq} (hone : one ≠ []) (hzero : zero ≠ []) (s : BitSeq) :
    GreedyParse one zero s (lineDecode s one zero) := by
  have honePos : 0 < one.length := List.length_pos_iff.2 hone
  have hzeroPos : 0 < zero.length := List.length_pos_iff.2 hzero
  rw [lineDecode_eq hone hzero]
  simp only [List.isPrefixOf_iff_prefix]
  split_ifs with hmatch1 hmatch0
  · obtain ⟨rest, hs⟩ := hmatch1
    have hshorter : rest.length < s.length := by simpa [← hs] using honePos
    rw [← hs, List.drop_left]
    exact .emitOne (lineDecode_greedyParse hone hzero rest)
  · obtain ⟨rest, hs⟩ := hmatch0
    have hshorter : rest.length < s.length := by simpa [← hs] using hzeroPos
    rw [← hs] at hmatch1 ⊢
    rw [List.drop_left]
    exact .emitZero hmatch1 (lineDecode_greedyParse hone hzero rest)
  · exact .stop hmatch1 hmatch0
termination_by s.length

/-- The symbol of an emitted bit (R177). -/
def symbol (one zero : BitSeq) (b : Bool) : BitSeq := if b then one else zero

namespace GreedyParse
variable {one zero s d : BitSeq}

/-- With equal patterns a 0 is never emitted: `one` matches wherever `zero` does (R171). -/
theorem all_ones {pat : BitSeq} (h : GreedyParse pat pat s d) : ∀ b ∈ d, b = true := by
  induction h with
  | stop => simp
  | emitOne _ ih => simpa using ih
  | emitZero hmiss1 _ _ => exact absurd (List.prefix_append _ _) hmiss1

/-- Every emitted bit takes at least the shorter pattern's length off the input (R172). -/
theorem length_mul_le (h : GreedyParse one zero s d) : d.length * min one.length zero.length ≤ s.length := by
  induction h with
  | stop => simp
  | emitOne _ ih | emitZero _ _ ih =>
    rw [List.length_cons, List.length_append, Nat.succ_mul]
    omega

/-- The input is the symbols of the output end to end, and a rest that neither pattern begins (R177). -/
theorem exists_rest (h : GreedyParse one zero s d) :
    ∃ rest, s = d.flatMap (symbol one zero) ++ rest ∧ ¬one <+: rest ∧ ¬zero <+: rest := by
  induction h with
  | stop hmiss1 hmiss0 => exact ⟨_, rfl, hmiss1, hmiss0⟩
  | emitOne _ ih | emitZero _ _ ih =>
    obtain ⟨rest, rfl, hmiss1, hmiss0⟩ := ih
    exact ⟨rest, by simp [symbol], hmiss1, hmiss0⟩

end GreedyParse

/-! ### The statements -/

/-- Settles O48: the first branch of a turn, and `zero` never first where it is `one`. -/
theorem oneWinsEveryTie : Obligations.OneWinsEveryTie := by
  refine fun one zero hone hzero s => ⟨fun hmatch _ => ?_, fun heq => ?_⟩
  · rw [lineDecode_eq hone hzero, if_pos hmatch]
  · subst heq
    exact (lineDecode_greedyParse hone hone s).all_ones

/-- Settles O49. -/
theorem lineDecodeLengthBound : Obligations.LineDecodeLengthBound := by
  intro one zero s hone hzero
  have honePos : 0 < one.length := List.length_pos_iff.2 hone
  have hzeroPos : 0 < zero.length := List.length_pos_iff.2 hzero
  have hbits := lineDecode_length_le s one zero
  exact ⟨(Nat.le_div_iff_mul_le (by omega)).2 (lineDecode_greedyParse hone hzero s).length_mul_le,
    Nat.div_le_self _ _, by omega⟩

/-- Settles O50: the symbols and the rest of the parse. With `one = [0, 0]` and `zero = [0]`, the input [0] gives [0]
and [0, 0] gives [1]. -/
theorem lineDecodeParsesAPrefix : Obligations.LineDecodeParsesAPrefix := by
  refine ⟨fun one zero s hone hzero => ?_,
    [false, false], [false], [false], [false], by decide, by decide, by decide⟩
  intro sym d c
  obtain ⟨rest, hs, hmiss1, hmiss0⟩ := (lineDecode_greedyParse hone hzero s).exists_rest
  change s = d.flatMap sym ++ rest at hs
  have hc : c = (d.flatMap sym).length := List.length_flatMap.symm
  have hdrop : s.drop c = rest := by rw [hc, hs, List.drop_left]
  refine ⟨?_, ?_, ?_, ?_⟩
  · rw [hc, hs, List.length_append]
    omega
  · rw [hc, hs, List.take_left]
  · rw [matchAt_eq_isPrefixOf hone, hdrop, ← Bool.not_eq_true, List.isPrefixOf_iff_prefix]
    exact hmiss1
  · rw [matchAt_eq_isPrefixOf hzero, hdrop, ← Bool.not_eq_true, List.isPrefixOf_iff_prefix]
    exact hmiss0

end Sys2Proof.Machine
end

section
/-! PROOFS. The two LineDecoder commands (41_linedecoder R161, R180): their words, their errors, and what each writes. -/

namespace Sys2Proof.Machine

/-! ### The meanings, by their checks -/

theorem execConfigure_of_locked {s : State} (hc : s.cfgValid = true) : execConfigure s = .next (s.failedWith 0x6) :=
  if_pos hc

theorem execConfigure_of_legal {s : State} (hc : s.cfgValid = false) (hp : s.patternsLegal = true) :
    execConfigure s = .next (s.commitConfig.succeed false) := by
  simp [execConfigure, hc, hp]

theorem execDecodeBits_of_unconfigured {s : State} (hc : s.cfgValid = false) :
    execDecodeBits s = .next (s.failedWith 0x5) :=
  if_pos (by simp [hc])

theorem execDecodeBits_of_not_fit {s : State} (hc : s.cfgValid = true) (h : 8 * Config.bufBytes < s.inNbits.toNat) :
    execDecodeBits s = .next (s.failedWith 0x4) := by
  have hr : ¬s.inNbitsInRange = true := mt s.inNbitsInRange_iff.1 (by omega)
  rw [execDecodeBits, if_neg (by simp [hc]), if_pos (by simpa using hr)]
  rfl

theorem execDecodeBits_of_fit {s : State} (hc : s.cfgValid = true) (hp : s.patternsLegal = true)
    (h : s.inNbits.toNat ≤ 8 * Config.bufBytes) :
    execDecodeBits s = .next ((s.writeBits (lineDecode s.inputBits s.oneSeq s.zeroSeq)).succeed false) := by
  simp [execDecodeBits, hc, s.inNbitsInRange_iff.2 h, hp]

/-! ### The statements -/

/-- Settles O51. -/
theorem configureCommitsLegalPatterns : Obligations.ConfigureCommitsLegalPatterns := by
  refine fun s => ⟨decodeCmd_eq_ok_iff_eq_encode rfl, execConfigure_of_locked, fun hc hlens => ?_,
    fun hc hone hone' hzero hzero' => execConfigure_of_legal hc (s.patternsLegal_iff.2 ⟨⟨hone, hone'⟩, hzero, hzero'⟩)⟩
  exact execConfigure_refused hc (Bool.not_eq_true _ ▸ mt s.patternsLegal_iff.1 hlens)

/-- Settles O52: the decoder emits no more bits than it reads, so the output fits OUT_MEM (R172). -/
theorem decodeBitsStoresTheDecodedBits : Obligations.DecodeBitsStoresTheDecodedBits := by
  refine fun s => ⟨decodeCmd_eq_ok_iff_eq_encode rfl, execDecodeBits_of_unconfigured, execDecodeBits_of_not_fit,
    fun hc hp hnbits => ⟨_, execDecodeBits_of_fit hc hp hnbits, succeed_completedOk _ _,
      writeBits_succeed_wroteOutputOnly _ _ _, writeBits_succeed_holdsOutput ?_ _⟩⟩
  calc (lineDecode s.inputBits s.oneSeq s.zeroSeq).length
      ≤ s.inputBits.length := lineDecode_length_le _ _ _
    _ = s.inNbits.toNat := s.inputBits_length
    _ ≤ 8 * Config.bufBytes := hnbits

end Sys2Proof.Machine
end

section
/-! PROOFS. DECODE_BYTES (42_pipeline R190 to R192): its word, its errors, what it writes, and what its output depends
on. -/

namespace Sys2Proof.Machine

/-! ### The meaning, by its checks -/

theorem execDecodeBytes_of_unconfigured {s : State} (hc : s.cfgValid = false) :
    execDecodeBytes s = .next (s.failedWith 0x5) :=
  if_pos (by simp [hc])

theorem execDecodeBytes_of_not_fit {s : State} (hc : s.cfgValid = true) (h : Config.bufBytes < s.inLen.toNat) :
    execDecodeBytes s = .next (s.failedWith 0x4) := by
  have hr : ¬s.inLenInRange = true := mt s.inLenInRange_iff.1 (by omega)
  rw [execDecodeBytes, if_neg (by simp [hc]), if_pos (by simpa using hr)]
  rfl

theorem execDecodeBytes_of_fit {s : State} (hc : s.cfgValid = true) (hp : s.patternsLegal = true)
    (h : s.inLen.toNat ≤ Config.bufBytes) :
    execDecodeBytes s = .next ((s.writeBits s.decodedPayload).succeed (padNotice s.decodedPayload.length)) := by
  simp [execDecodeBytes, hc, s.inLenInRange_iff.2 h, hp]

/-! ### The decoded payload -/

/-- The decoder emits no more bits than it reads, so the payload of an input inside IN_MEM fits OUT_MEM (R172). -/
theorem decodedPayload_length_le {s : State} (h : s.inLen.toNat ≤ Config.bufBytes) :
    s.decodedPayload.length ≤ 8 * Config.bufBytes := by
  calc s.decodedPayload.length
      ≤ (bytesToBits s.inputBytes).length := lineDecode_length_le _ _ _
    _ = 8 * s.inLen.toNat := by rw [bytesToBits_length, State.inputBytes_length]
    _ ≤ 8 * Config.bufBytes := Nat.mul_le_mul_left 8 h

/-- The byte-buffer operand reads no byte of IN_MEM past IN_LEN (20_memory R80). -/
theorem inputBytes_congr_below_inLen {s s' : State} (hlen : s'.inLen = s.inLen)
    (hbytes : ∀ j, j < s.inLen.toNat → s'.inMem.read j = s.inMem.read j) : s'.inputBytes = s.inputBytes := by
  rw [State.inputBytes, hlen]
  exact List.map_congr_left fun j hj => hbytes j (List.mem_range.1 hj)

/-- PAD reports a partial last byte (R191). -/
theorem padNotice_eq_decide (n : Nat) : padNotice n = decide (n % 8 ≠ 0) := by
  rw [Bool.eq_iff_iff, padNotice_iff, decide_eq_true_iff]

/-! ### The statements -/

/-- Settles O53: the output bytes are the packed payload, which is `pipelineDecode` of the input bytes (R190). -/
theorem decodeBytesStoresTheDecodedPayload : Obligations.DecodeBytesStoresTheDecodedPayload := by
  refine fun s => ⟨decodeCmd_eq_ok_iff_eq_encode rfl, execDecodeBytes_of_unconfigured, execDecodeBytes_of_not_fit,
    fun hc hp hlen => ?_⟩
  have hfit : s.decodedPayload.length ≤ 8 * Config.bufBytes := decodedPayload_length_le hlen
  exact ⟨_, execDecodeBytes_of_fit hc hp hlen, writeBits_succeed_wroteOutputOnly _ _ _,
    padNotice_eq_decide _ ▸ succeed_completedOk _ _, writeBits_succeed_holdsOutput hfit _,
    writeBits_succeed_readBytes hfit _⟩

/-- Settles O24: both states succeed with the same decoded payload, which fixes the padding notice and the output. -/
theorem decodeBytesDependsOnItsInputAlone : Obligations.DecodeBytesDependsOnItsInputAlone := by
  intro s s' hc hc' hlegal hlegal' hfit hlen hbytes hone hzero
  have hpayload : s'.decodedPayload = s.decodedPayload := by
    rw [State.decodedPayload, inputBytes_congr_below_inLen hlen hbytes, hone, hzero, ← State.decodedPayload]
  have hexec' := execDecodeBytes_of_fit hc' (hlegal' hc') (hlen ▸ hfit)
  rw [hpayload] at hexec'
  obtain ⟨houtLen, houtNbits, houtBytes⟩ := writeBits_succeed_output_congr s s' s.decodedPayload _
  exact ⟨_, _, execDecodeBytes_of_fit hc (hlegal hc) hfit, hexec', houtLen, houtNbits, rfl, houtBytes⟩

end Sys2Proof.Machine
end

section
/-! PROOFS. Command errors (60_exceptions R200, R208, R211): which error a completion reports, that it writes STATUS only,
and that no step from a good state stops the machine. -/

namespace Sys2Proof.Machine

theorem engineTurn_of_decode {s : State} {i : Instr} (hb : s.busy = true) (hd : decodeCmd s.cmd = .ok i) :
    engineTurn s = exec i s :=
  (engineTurn_busy hb).trans (completion_of_decode hd)

/-- A command reports its first error, and writes STATUS only (60_exceptions R200, R208). -/
theorem exec_of_firstError_some {s : State} {i : Instr} {code : BitVec 4} (hs : s.configConsistent)
    (herr : s.firstError i = some code) : exec i s = .next (s.failedWith code) := by
  obtain ⟨t, ht⟩ := exec_answers hs i
  rcases exec_next ht with ⟨code', hcode', rfl⟩ | ⟨hnone, -⟩
  · rw [ht, Option.some.inj (herr.symm.trans hcode')]
  · cases herr.symm.trans hnone

/-- A command that meets no error succeeds (10_state R53). -/
theorem exec_of_firstError_none {s : State} {i : Instr} (hs : s.configConsistent) (hok : s.firstError i = none) :
    exec i s = .next (s.succeeded i) := by
  obtain ⟨t, ht⟩ := exec_answers hs i
  rcases exec_next ht with ⟨code, hcode, -⟩ | ⟨-, rfl⟩
  · cases hok.symm.trans hcode
  · exact ht

/-- Settles O12: of the three kinds of event only the engine's turn could stop, over committed patterns that the
invariant shuts out. -/
theorem noGoodStateStops : Obligations.NoGoodStateStops := by
  intro s hs
  rcases step_cases s with ⟨-, h⟩ | ⟨rest, -, h⟩ | ⟨a, rest, -, h⟩ | ⟨rest, -, h⟩ <;> rw [h]
  · exact engineTurn_answers hs.config
  · exact engineTurn_answers (withAgenda_inv hs rest).config
  · exact ⟨_, rfl⟩
  · exact ⟨_, rfl⟩

/-- Settles O20: an error is raised by an illegal word or is the command's first error, and a success flags none. -/
theorem errorsArePrecise : Obligations.ErrorsArePrecise := by
  intro s t hb hturn herr
  rcases engineTurn_next hturn with ⟨hidle, -⟩ | ⟨-, rfl⟩ | ⟨-, i, -, hexec⟩
  · simp [hb] at hidle
  · have hcode : 1 ≤ (0x3#4).toNat ∧ (0x3#4).toNat ≤ 6 := by decide
    exact ⟨rfl, hcode⟩
  · rcases exec_next hexec with ⟨code, hcode, rfl⟩ | ⟨-, rfl⟩
    · exact ⟨rfl, firstError_code hcode⟩
    · obtain ⟨-, -, hnone, -⟩ := succeeded_status s i
      simp [hnone] at herr

/-- Settles O22: in a state whose committed patterns are legal every command answers, and what it answers is its first
error or its success. -/
theorem firstErrorIsReported : Obligations.FirstErrorIsReported := by
  refine fun s hb hs => ⟨engineTurn_of_illegal hb, fun i hd => ?_⟩
  rw [engineTurn_of_decode hb hd]
  obtain ⟨-, -, hnone, hcode⟩ := succeeded_status s i
  exact ⟨fun code => exec_of_firstError_some hs, fun hok => ⟨_, exec_of_firstError_none hs hok, hnone, hcode⟩⟩

end Sys2Proof.Machine
end

section
/-! PROOFS. Bus errors (60_exceptions R206, 20_memory R61 to R67): which accesses are refused, and that every other one is
answered ok. -/

namespace Sys2Proof.Machine

/-! ### Which offsets each target has (20_memory R61) -/

/-- The offset map read from the target's side. -/
def Target.HasOffset : Target → Nat → Prop
  | .reg r, o => o = r.offset
  | .inWord i, o => o = 0x10000 + i ∧ i < Config.bufBytes
  | .outWord i, o => o = 0x20000 + i ∧ i < Config.bufBytes
  | .unmapped, o => unmappedOffset o

/-- Every word below 0x38 is a register (10_state R22). -/
theorem regAt_isSome : ∀ n < 0x38, n % 4 = 0 → (regAt n).isSome = true := by decide

theorem Reg.offset_le (r : Reg) : r.offset ≤ 0x34 := by cases r <;> decide

/-- The offset map, target by target, at every aligned offset. -/
theorem target_hasOffset {offset : BitVec 18} (ha : offset.toNat % 4 = 0) : (target offset).HasOffset offset.toNat := by
  unfold target
  split
  case h_1 hpage =>
    have hlow : offset.toNat % 0x10000 = offset.toNat := by omega
    rw [hlow]
    cases hreg : regAt offset.toNat with
    | some r => exact offset_of_regAt hreg
    | none =>
      have hpast : ¬ offset.toNat < 0x38 := fun hlt => by simpa [hreg] using regAt_isSome _ hlt ha
      exact .inl ⟨by omega, by omega⟩
  case h_2 hpage =>
    split_ifs with hin
    · exact ⟨by omega, hin⟩
    · exact .inr (.inl ⟨by omega, by omega⟩)
  case h_3 hpage =>
    split_ifs with hin
    · exact ⟨by omega, hin⟩
    · exact .inr (.inr (.inl ⟨by omega, by omega⟩))
  case h_4 hnot0 hnot1 hnot2 =>
    rw [imp_false] at hnot0 hnot1 hnot2
    exact .inr (.inr (.inr (by omega)))

theorem target_eq_unmapped_iff {offset : BitVec 18} (ha : offset.toNat % 4 = 0) :
    target offset = .unmapped ↔ unmappedOffset offset.toNat := by
  have hcap := bufBytes_legal
  have hoff := target_hasOffset ha
  refine ⟨fun h => by rwa [h] at hoff, fun hun => ?_⟩
  unfold unmappedOffset at hun
  cases ht : target offset with
  | unmapped => rfl
  | reg r =>
    rw [ht, Target.HasOffset] at hoff
    have hle := r.offset_le
    omega
  | inWord i | outWord i =>
    rw [ht, Target.HasOffset] at hoff
    omega

/-! ### Reads -/

/-- Why a read gets a bus error (R206). -/
def readRefused (offset : BitVec 18) : Prop := offset.toNat % 4 ≠ 0 ∨ unmappedOffset offset.toNat

theorem readTarget_answers {t : Target} (h : t ≠ .unmapped) (s : State) :
    ∃ d, (s.readTarget t).resp = some (.readOk d) := by
  cases t with
  | unmapped => exact absurd rfl h
  | inWord i => exact ⟨_, rfl⟩
  | reg r =>
    rw [State.readTarget]
    split_ifs <;> exact ⟨_, rfl⟩
  | outWord i =>
    rw [State.readTarget]
    split_ifs <;> exact ⟨_, rfl⟩

/-- Everything a read can be answered: a bus error, which changes nothing else, or ok. -/
theorem hostAccess_read_cases (s : State) (offset : BitVec 18) :
    (readRefused offset ∧ s.hostAccess (.read offset) = s.refuseRead) ∨
    (¬ readRefused offset ∧ ∃ d, (s.hostAccess (.read offset)).resp = some (.readOk d)) := by
  unfold readRefused
  by_cases ha : offset.toNat % 4 = 0
  case neg => exact .inl ⟨.inl ha, if_neg (mt (aligned_iff offset).1 ha)⟩
  rw [hostAccess_read_aligned ((aligned_iff offset).2 ha), ← target_eq_unmapped_iff ha]
  by_cases ht : target offset = .unmapped
  · exact .inl ⟨.inr ht, by rw [ht]; rfl⟩
  · exact .inr ⟨not_or.2 ⟨not_not_intro ha, ht⟩, readTarget_answers ht s⟩

/-! ### Writes -/

/-- Where no write goes (R206): to no register and no buffer byte, to an RO register, to OUT_MEM, and to a pattern register
once the configuration is committed. -/
def State.locationRefusesWrite (s : State) (o : Nat) : Prop :=
  unmappedOffset o ∨ o ∈ [0x004, 0x014, 0x018, 0x01C, 0x030, 0x034] ∨
    (0x20000 ≤ o ∧ o < 0x20000 + Config.bufBytes) ∨ (s.cfgValid = true ∧ o ∈ [0x020, 0x024, 0x028, 0x02C])

/-- The RO registers take no write, and the RW-L registers none once the configuration is committed (10_state R22, R23). -/
theorem writeReg_eq_none_iff (s : State) (r : Reg) (w : Word) :
    s.writeReg r w = none ↔
      r.offset ∈ [0x004, 0x014, 0x018, 0x01C, 0x030, 0x034] ∨
        (s.cfgValid = true ∧ r.offset ∈ [0x020, 0x024, 0x028, 0x02C]) := by
  cases r <;> simp [State.writeReg, Reg.offset]

theorem locationRefusesWrite_reg_iff (s : State) (r : Reg) (w : Word) :
    s.locationRefusesWrite r.offset ↔ s.writeReg r w = none := by
  have hle := r.offset_le
  have hmapped : ¬ unmappedOffset r.offset := by unfold unmappedOffset; omega
  have hbelow : ¬ (0x20000 ≤ r.offset ∧ r.offset < 0x20000 + Config.bufBytes) := by omega
  rw [writeReg_eq_none_iff, State.locationRefusesWrite]
  simp only [hmapped, hbelow, false_or]

theorem not_locationRefusesWrite_inWord (s : State) {i : Nat} (hi : i < Config.bufBytes) :
    ¬ s.locationRefusesWrite (0x10000 + i) := by
  have hcap := bufBytes_legal
  simp only [State.locationRefusesWrite, unmappedOffset, List.mem_cons, List.not_mem_nil, or_false]
  omega

/-- A full-word write while BUSY = 0 is refused by its location or takes effect. -/
theorem writeTarget_cases {t : Target} {o : Nat} (h : t.HasOffset o) (s : State) (w : Word) :
    (s.locationRefusesWrite o ∧ s.writeTarget t w = s.refuseWrite) ∨
    (¬ s.locationRefusesWrite o ∧ (s.writeTarget t w).resp = some .writeOk) := by
  cases t with
  | reg r =>
    rw [h, locationRefusesWrite_reg_iff s r w]
    cases hw : s.writeReg r w with
    | none => exact .inl ⟨rfl, writeTarget_of_refused hw⟩
    | some t => exact .inr ⟨nofun, by rw [writeTarget_of_accepted hw]; rfl⟩
  | inWord i =>
    obtain ⟨rfl, hi⟩ := h
    exact .inr ⟨not_locationRefusesWrite_inWord s hi, rfl⟩
  | outWord i =>
    obtain ⟨rfl, hi⟩ := h
    exact .inl ⟨.inr (.inr (.inl ⟨by omega, by omega⟩)), rfl⟩
  | unmapped => exact .inl ⟨.inl h, rfl⟩

/-- Why a write gets a bus error (R206): it is misaligned or narrow, by its location, or a command is in flight. -/
def State.writeRefused (s : State) (offset : BitVec 18) (strobes : Option (BitVec 4)) : Prop :=
  offset.toNat % 4 ≠ 0 ∨ fullWord strobes = false ∨ s.locationRefusesWrite offset.toNat ∨ s.busy = true

theorem fullWord_eq_false_iff (strobes : Option (BitVec 4)) :
    fullWord strobes = false ↔ ∃ b, strobes = some b ∧ b ≠ 0xF#4 := by
  cases strobes <;> simp [fullWord]

/-- Everything a write can be answered: a bus error, which changes nothing else, or ok. -/
theorem hostAccess_write_cases (s : State) (offset : BitVec 18) (w : Word) (strobes : Option (BitVec 4)) :
    (s.writeRefused offset strobes ∧ s.hostAccess (.write offset w strobes) = s.refuseWrite) ∨
    (¬ s.writeRefused offset strobes ∧ (s.hostAccess (.write offset w strobes)).resp = some .writeOk) := by
  unfold State.writeRefused
  by_cases ha : offset.toNat % 4 = 0
  case neg => exact .inl ⟨.inl ha, if_neg (by simp [mt (aligned_iff offset).1 ha])⟩
  cases hfull : fullWord strobes with
  | false => exact .inl ⟨.inr (.inl rfl), if_neg (by simp [hfull])⟩
  | true =>
    by_cases hb : s.busy = true
    · exact .inl ⟨.inr (.inr (.inr hb)), hostAccess_write_of_busy hb offset w strobes⟩
    · rw [hostAccess_write_granted ((aligned_iff offset).2 ha) hfull (Bool.eq_false_iff.2 hb)]
      simpa [ha, hb] using writeTarget_cases (target_hasOffset ha) s w

/-! ### The statement -/

/-- Settles O27: a refused access answers its error and nothing else, and every other access is answered ok. -/
theorem busErrorsAreExactlyTheRefusedAccesses : Obligations.BusErrorsAreExactlyTheRefusedAccesses := by
  intro s offset
  rw [← and_assoc]
  refine ⟨?_, fun w strobes => ?_⟩
  · rcases hostAccess_read_cases s offset with ⟨hrefused, hread⟩ | ⟨hgranted, d, hread⟩
    · rw [hread]
      exact ⟨iff_of_true ⟨0, rfl⟩ hrefused, fun d hd => by cases hd; exact ⟨rfl, rfl⟩⟩
    · rw [hread]
      exact ⟨iff_of_false nofun hgranted, nofun⟩
  · have hcases := hostAccess_write_cases s offset w strobes
    simp only [State.writeRefused, fullWord_eq_false_iff, State.locationRefusesWrite, or_assoc] at hcases
    rcases hcases with ⟨hrefused, hwrite⟩ | ⟨hgranted, hwrite⟩
    · rw [hwrite]
      exact ⟨iff_of_true rfl hrefused, fun _ => rfl⟩
    · rw [hwrite]
      exact ⟨iff_of_false nofun hgranted, nofun⟩

end Sys2Proof.Machine
end

section
/-! PROOFS. Reset (70_reset R230, R232) and the completion of a command that stays issued (70_reset R241). -/

namespace Sys2Proof.Machine

/-! ### Reset -/

/-- The state after reset is what a reset event makes of a machine that has made no draw yet (log 6). -/
theorem reset_eq_resetEvent : State.reset = { State.reset with draws := 0 }.resetEvent := rfl

/-- Settles O10: a reset from any state leads to a good one. -/
theorem invariantHoldsAtReset : Obligations.InvariantHoldsAtReset := by
  rw [Obligations.InvariantHoldsAtReset, reset_eq_resetEvent]
  exact resetEvent_inv _

theorem step_reset {s : State} {rest : List Event} (h : s.agenda = .reset :: rest) :
    step s = .next (s.withAgenda rest).resetEvent := (stepTakesTheOldestArrival s rest).2 h

@[simp] theorem resetEvent_statusWord (s : State) : s.resetEvent.statusWord = 0 :=
  statusWord_congr (s := State.reset) rfl rfl rfl rfl rfl rfl

section AfterReset

variable (s : State)

/-- IN_LEN is 0 after a reset, which fits IN_MEM (70_reset R232). -/
theorem resetEvent_exec_bytesToBits : ∃ u, exec .bytesToBits s.resetEvent = .next u ∧ u.CompletedOk false :=
  ⟨_, execBytesToBits_of_fit (by simp), succeed_completedOk _ _⟩

/-- IN_NBITS is 0 after a reset, and an output of no bits has no partial last byte, so PAD stays 0 (10_state R33). -/
theorem resetEvent_exec_bitsToBytes : ∃ u, exec .bitsToBytes s.resetEvent = .next u ∧ u.CompletedOk false := by
  have hpad : padNotice s.resetEvent.inNbits.toNat = false := rfl
  exact ⟨_, execBitsToBytes_of_fit (by simp), hpad ▸ succeed_completedOk _ _⟩

/-- ARG_VALUE is 0 after a reset, which fits every width, width 0 too (40_bitcodec R142). -/
theorem resetEvent_exec_intToBits (width : Nat) :
    ∃ u, exec (.intToBits width) s.resetEvent = .next u ∧ u.CompletedOk false :=
  ⟨_, execIntToBits_of_fit (by simp), succeed_completedOk _ _⟩

theorem resetEvent_exec_bitsToInt (inv rev : Bool) :
    ∃ u, exec (.bitsToInt inv rev) s.resetEvent = .next u ∧ u.CompletedOk false :=
  ⟨_, execBitsToInt_of_fit (by simp) inv rev, succeed_completedOk _ _⟩

end AfterReset

/-- Settles O9: after the STATUS word, the ten remaining registers and the six STATUS fields hold their reset values by
definition; BUF_BYTES reads a constant, and CFG_VALID = 0 makes the decodes fail. -/
theorem resetSetsEveryRegister : Obligations.ResetSetsEveryRegister := by
  intro s rest h
  refine ⟨_, step_reset h, rfl, rfl, resetEvent_statusWord _, ?_⟩
  iterate 16 refine ⟨rfl, ?_⟩
  exact ⟨rfl, rfl, execDecodeBits_of_unconfigured rfl, execDecodeBytes_of_unconfigured rfl,
    resetEvent_exec_bytesToBits _, resetEvent_exec_bitsToBytes _, resetEvent_exec_intToBits _,
    resetEvent_exec_bitsToInt _⟩

/-! ### A command that stays issued -/

/-- `t` reports the command that CMD holds in `s` as completed (10_state R53). -/
structure State.CommandDone (s t : State) : Prop where
  busy : t.busy = false
  done : t.done = true
  cmd : t.cmd = s.cmd

/-- In a good state the engine's turn completes the command in flight. -/
theorem engineTurn_commandDone {s : State} (hs : s.Inv) (hb : s.busy = true) :
    ∃ t, engineTurn s = .next t ∧ s.CommandDone t := by
  obtain ⟨t, ht⟩ := engineTurn_answers hs.config
  obtain ⟨hbusy, hdone⟩ := engineTurn_completes hb ht
  exact ⟨t, ht, hbusy, hdone, (engineTurn_sameOperands ht).cmd⟩

/-- An access leaves a command in flight, with the same CMD and the same arrivals to come (20_memory R67, R68). -/
theorem hostAccess_keeps_inFlight {s : State} (hb : s.busy = true) (a : Access) :
    (s.hostAccess a).busy = true ∧ (s.hostAccess a).cmd = s.cmd ∧ (s.hostAccess a).agenda = s.agenda := by
  obtain ⟨r, n, h⟩ := hostAccess_of_busy hb a
  rw [h]
  exact ⟨hb, rfl, rfl⟩

/-- By induction on the arrivals: the engine's turn, first on the agenda or on an empty one, completes the command, and
each access before it costs one step. -/
theorem run_commandDone (agenda : List Event) (hreset : .reset ∉ agenda) :
    ∀ {s : State}, s.agenda = agenda → s.Inv → s.busy = true →
      ∃ k t, k ≤ agenda.length + 1 ∧ Sys2Proof.core.run k s = .next t ∧ s.CommandDone t := by
  induction agenda with
  | nil =>
    intro s hagenda hs hb
    obtain ⟨t, ht, hover⟩ := engineTurn_commandDone hs hb
    exact ⟨1, t, by simp, run_succ ((step_nil hagenda).trans ht) 0, hover⟩
  | cons e rest ih =>
    intro s hagenda hs hb
    have hrest : (s.withAgenda rest).Inv := withAgenda_inv hs rest
    cases e with
    | engine =>
      obtain ⟨t, ht, hover⟩ := engineTurn_commandDone hrest hb
      exact ⟨1, t, by simp, run_succ ((step_cons hagenda).trans ht) 0, hover.busy, hover.done, hover.cmd⟩
    | access a =>
      obtain ⟨hbusy, hcmd, htail⟩ := hostAccess_keeps_inFlight (s := s.withAgenda rest) hb a
      obtain ⟨k, t, hk, hrun, hover⟩ := ih (List.not_mem_of_not_mem_cons hreset) htail (hostAccess_inv hrest a) hbusy
      exact ⟨k + 1, t, Nat.succ_le_succ hk, (run_succ (step_cons hagenda) k).trans hrun, hover.busy, hover.done,
        hover.cmd.trans hcmd⟩
    | reset => exact absurd List.mem_cons_self hreset

/-- Settles O13. -/
theorem issuedCommandIsCompleted : Obligations.IssuedCommandIsCompleted := by
  intro s hs hb hreset
  obtain ⟨k, t, hk, hrun, hover⟩ := run_commandDone s.agenda hreset rfl hs hb
  exact ⟨k, t, hk, hrun, hover.busy, hover.done, hover.cmd⟩

end Sys2Proof.Machine
end
